-- ==== Sys2Proof/Word.lean ====
section
/-!
DEFINITION. The word types of DPSE: packet bytes, the 32-bit value every target access moves (20_memory.md R67), the
4-bit register selector SEL (30_encoding.md R92) and packets as finite byte lists (00_scope.md R13).
-/

namespace Sys2Proof

/-- A byte of a command or response packet (R13). -/
abbrev Byte := BitVec 8

/-- The one access width of DPSE: 32 bits (R67). -/
abbrev Word := BitVec 32

/-- The register selector: bit 0 APnDP, bit 1 RnW, bit 2 A2, bit 3 A3 (R92). -/
abbrev Sel := BitVec 4

/-- A command or response packet: a finite list of bytes, offset 0 first (R13, R61). -/
abbrev Packet := List Byte

end Sys2Proof
end

