-- ==== Sys2Proof/Config.lean ====
section
/-!
DEFINITION. The implementation parameters of 00_scope.md R10 (the OPEN parameters of 92_eei_decisions.md D4), and the
free values: the target's levels (20_memory.md R72) and the values the spec calls `unspecified` (93 part 2).
-/

namespace Sys2Proof

/-- The open parameters of R10. Their constraints are `Sys2Proof.Machine.Legal`; the derived ones (HALF_MAX, F_MAX,
F_MIN) are functions of these in Machine/Params.lean. -/
structure Config where
  /-- F_SYS: frequency of `clk_sys` in Hz. -/
  fSys : Nat
  /-- HALF_MIN: smallest half-period, in ticks. -/
  halfMin : Nat
  /-- HALF_BITS: width of S.HALF. -/
  halfBits : Nat
  /-- HALF_RESET: S.HALF after hardware reset. -/
  halfReset : Nat
  /-- QCAP: capacity of the Transfer Queue, in Operations. -/
  qcap : Nat
  /-- WAIT_RETRY_MAX: how many times one Operation is sent again after WAIT. -/
  waitRetryMax : Nat
  /-- TRN: clock cycles of one turnaround. -/
  trn : Nat
  /-- HAS_AUX: the separate data-in pin exists. -/
  hasAux : Bool
  /-- SCAN_IR_LEN: bits of the chain-select field. -/
  scanIrLen : Nat
  /-- SCAN_IR_DP: chain-select code of port kind DP. -/
  scanIrDp : BitVec 32
  /-- SCAN_IR_AP: chain-select code of port kind AP. -/
  scanIrAp : BitVec 32
  /-- INFO_VERSION: version byte of the INFO response. -/
  infoVersion : Byte
  /-- CMD_MAX: longest command packet the host channel carries. -/
  cmdMax : Nat
  /-- RSP_MAX: longest response packet. -/
  rspMax : Nat
  deriving DecidableEq, Repr

/-- The example configuration CFG_EX of R10 (92 D50), the one of the spec's test vectors. It is not normative; the model
takes it for `State.reset` only. DESIGN CHOICE, assumption log entry 1: safe, the statements hold for every legal
configuration. -/
def Config.cfgEx : Config where
  fSys := 48000000
  halfMin := 1
  halfBits := 16
  halfReset := 65535
  qcap := 8
  waitRetryMax := 2
  trn := 1
  hasAux := true
  scanIrLen := 4
  scanIrDp := 0b1010
  scanIrAp := 0b1011
  infoVersion := 0x01
  cmdMax := 64
  rspMax := 64

/-- FREE VALUE. The level at the n-th sample DPSE takes, once the listed answers of the target are used up: the oracle
`TargetBit()` of R72. Nothing constrains it. DESIGN CHOICE, log entry 3: safe. -/
opaque Config.targetBit : Nat → Bool

/-- FREE VALUE. The n-th value of width w that the spec calls `unspecified` (93 U1 to U4). Nothing constrains it.
DESIGN CHOICE, log entry 4: safe. -/
opaque Config.free : (w n : Nat) → BitVec w

end Sys2Proof
end

