-- ==== Sys2Proof/Machine/Params.lean ====
section
/-!
DEFINITION. The parameters of 00_scope.md R10 that are derived from the open ones, the constraints of R10, and the two
roundings of R14 (`ceil_div`; `floor_div` is division of naturals).
-/

namespace Sys2Proof.Machine

open Sys2Proof

/-- `ceil_div(a, b)`: the least q with q * b >= a, for b > 0 (R14). -/
def ceilDiv (a b : Nat) : Nat :=
  (a + b - 1) / b

/-- HALF_MAX = 2^HALF_BITS - 1 (R10). -/
def halfMax (c : Config) : Nat :=
  2 ^ c.halfBits - 1

/-- F_MAX = floor(F_SYS / (2 * HALF_MIN)) (R10). -/
def fMax (c : Config) : Nat :=
  c.fSys / (2 * c.halfMin)

/-- F_MIN = ceil(F_SYS / (2 * HALF_MAX)) (R10). -/
def fMin (c : Config) : Nat :=
  ceilDiv c.fSys (2 * halfMax c)

/-- The constraints on the parameters that R10 tabulates. -/
structure Legal (c : Config) : Prop where
  fSys_pos : 1 ≤ c.fSys
  fSys_lt : c.fSys < 2 ^ 32
  halfMin_pos : 1 ≤ c.halfMin
  halfMin_le : c.halfMin ≤ halfMax c
  halfBits_pos : 1 ≤ c.halfBits
  halfBits_le : c.halfBits ≤ 32
  halfReset_ge : c.halfMin ≤ c.halfReset
  halfReset_le : c.halfReset ≤ halfMax c
  qcap_pos : 1 ≤ c.qcap
  qcap_le : c.qcap ≤ 255
  waitRetryMax_le : c.waitRetryMax ≤ 255
  trn_pos : 1 ≤ c.trn
  trn_le : c.trn ≤ 4
  scanIrLen_pos : 1 ≤ c.scanIrLen
  scanIrLen_le : c.scanIrLen ≤ 32
  scanIrDp_lt : c.scanIrDp.toNat < 2 ^ c.scanIrLen
  scanIrAp_lt : c.scanIrAp.toNat < 2 ^ c.scanIrLen
  scanIr_ne : c.scanIrAp ≠ c.scanIrDp
  cmdMax_ge : 6 ≤ c.cmdMax
  rspMax_batch : 5 + 5 * c.qcap ≤ c.rspMax
  rspMax_info : 14 ≤ c.rspMax

end Sys2Proof.Machine
end

