-- ==== Sys2Proof/Syntax.lean ====
section
/-!
DEFINITION. The instructions of DPSE: one constructor per row of spec/opcode_table.json. Ten rows are host commands
(30_encoding.md R81, R102), five are the wire formats of the codec (30_encoding.md R97 to R101). The pseudo-commands of
R105 are other spellings of these and have no constructor.
-/

namespace Sys2Proof

/-- Port kind, bit 0 of SEL: DP = 0, AP = 1 (00_scope.md R15, 30_encoding.md R92). -/
inductive PortKind where
  | dp
  | ap
  deriving DecidableEq, Repr

/-- A location of the register selector space (20_memory.md R62): port kind and the two address bits A3, A2. -/
structure Loc where
  port : PortKind
  addr : BitVec 2
  deriving DecidableEq, Repr

/-- The five wire fields of the opcode table (R97 to R101). -/
inductive WireField where
  | req
  | ack
  | data
  | ir
  | dr
  deriving DecidableEq, Repr

/-- A word of one wire field, bit 0 first on the wire (20_memory.md R65). A wire word does not say which field it is: the
codec knows that from where it stands in the transaction. -/
structure WireWord where
  field : WireField
  bits : Nat
  deriving DecidableEq, Repr

/-- The instructions of DPSE. -/
inductive Instr where
  /-- INFO (42_session_commands.md R181). -/
  | info
  /-- CONNECT with its raw DISC and FLAGS bytes; their legality is checked when it runs (R84 step 4, R183). -/
  | connect (disc flags : Byte)
  /-- CLOCK with FREQ in hertz (R94, R186). -/
  | clock (freq : Word)
  /-- RESET with its raw LEVEL byte and DURATION in microseconds (R95, R189). -/
  | reset (level : Byte) (duration : Word)
  /-- XFER, read form: SEL[1] = 1 (43_transfer_commands.md R214). -/
  | xferR (loc : Loc)
  /-- XFER, write form: SEL[1] = 0 (R214). -/
  | xferW (loc : Loc) (value : Word)
  /-- QPUSH, read form (R217). -/
  | qpushR (loc : Loc)
  /-- QPUSH, write form (R217). -/
  | qpushW (loc : Loc) (value : Word)
  /-- QEXEC (R221, R222). -/
  | qexec
  /-- ABORT (R192). -/
  | abort
  /-- SWD.REQ: the 8-bit request header of selector `sel`, driven (R97). -/
  | swdReq (sel : Sel)
  /-- SWD.ACK: the 3-bit acknowledgement `ack`, sampled (R98). -/
  | swdAck (ack : BitVec 3)
  /-- SWD.DATA: 32 data bits and a parity bit, driven for a write, sampled for a read (R99). -/
  | swdData (data : Word) (par : Bool)
  /-- SCAN.IR: the chain-select field of a port kind (R100). -/
  | scanIr (port : PortKind)
  /-- SCAN.DR: the outgoing data-register word RnW, A2, A3, 32 data bits (R101). -/
  | scanDr (rnw a2 a3 : Bool) (data : Word)
  deriving DecidableEq, Repr

/-- Is the instruction one of the ten host commands (a packet), as against a wire field of the codec? -/
def Instr.isCommand : Instr → Bool
  | .info => true
  | .connect _ _ => true
  | .clock _ => true
  | .reset _ _ => true
  | .xferR _ => true
  | .xferW _ _ => true
  | .qpushR _ => true
  | .qpushW _ _ => true
  | .qexec => true
  | .abort => true
  | .swdReq _ => false
  | .swdAck _ => false
  | .swdData _ _ => false
  | .scanIr _ => false
  | .scanDr _ _ _ _ => false

end Sys2Proof
end

