-- ==== Sys2Proof/Machine/Operands.lean ====
section
/-!
DEFINITION. Every operand form of the spec: the selector SEL (30_encoding.md R92), the little-endian packet fields
(00_scope.md R13), bit strings sent bit 0 first (20_memory.md R65), the request header (R97), the data phase (R99), the
chain-select code (R100) and the data-register word (R101).
-/

namespace Sys2Proof.Machine

open Sys2Proof

/-- Bit 0 of SEL for a port kind (R92). -/
def portBit : PortKind → BitVec 4
  | .dp => 0b0000#4
  | .ap => 0b0001#4

/-- SEL of a location and a direction: kind + 2 * RnW + address (R104). `rnw = true` is a read. -/
def selOf (loc : Loc) (rnw : Bool) : Sel :=
  portBit loc.port ||| (if rnw then 0b0010#4 else 0b0000#4) ||| (loc.addr.setWidth 4 <<< 2)

/-- The port kind a selector names: SEL[0] (R92). -/
def selPort (sel : Sel) : PortKind :=
  if sel.getLsbD 0 then .ap else .dp

/-- The direction of a selector: SEL[1], true for a read (R92). -/
def selIsRead (sel : Sel) : Bool :=
  sel.getLsbD 1

/-- The location of a selector: port kind SEL[0] and address bits SEL[3:2] (R92, R210). -/
def selLoc (sel : Sel) : Loc :=
  { port := selPort sel, addr := sel.extractLsb' 2 2 }

/-- The register address SEL[3:2] * 4 of a location: one of 0x0, 0x4, 0x8, 0xC (R62, R210). -/
def regAddr (loc : Loc) : Nat :=
  loc.addr.toNat * 4

/-- `le16(v)`: low byte first (R13). -/
def le16 (v : BitVec 16) : List Byte :=
  [v.extractLsb' 0 8, v.extractLsb' 8 8]

/-- `le32(v)`: low byte first (R13). -/
def le32 (v : Word) : List Byte :=
  [v.extractLsb' 0 8, v.extractLsb' 8 8, v.extractLsb' 16 8, v.extractLsb' 24 8]

/-- `u32le` of the four bytes of a field, the byte at the lowest offset first (R13, R64). -/
def u32le (b0 b1 b2 b3 : Byte) : Word :=
  b3 ++ b2 ++ b1 ++ b0

/-- Bits 0 to count-1 of a value in the order they go on the wire, bit 0 first (R13, R65). -/
def bitsLsbFirst {n : Nat} (v : BitVec n) (count : Nat) : List Bool :=
  (List.range count).map v.getLsbD

/-- The value of sampled bits, the first sampled bit in bit 0 (R65). -/
def natOfBits : List Bool → Nat
  | [] => 0
  | b :: bs => b.toNat + 2 * natOfBits bs

/-- `parity4(sel)`: the exclusive or of the four bits of SEL (R14, R150). -/
def parity4 (sel : Sel) : Bool :=
  sel.getLsbD 0 ^^ sel.getLsbD 1 ^^ sel.getLsbD 2 ^^ sel.getLsbD 3

/-- The exclusive or of a list of bits. -/
def xorBits : List Bool → Bool
  | [] => false
  | b :: bs => b ^^ xorBits bs

/-- `parity32(v)`: the exclusive or of the 32 bits of v (R14, R150). -/
def parity32 (v : Word) : Bool :=
  xorBits (bitsLsbFirst v 32)

/-- `Header(sel) = 0x81 | (sel << 1) | (parity4(sel) << 5)` (R97, R141). -/
def header (sel : Sel) : Byte :=
  0x81#8 ||| (sel.setWidth 8 <<< 1) ||| ((BitVec.ofBool (parity4 sel)).setWidth 8 <<< 5)

/-- The 33 bits of the data phase: value bits 31:0, then the parity bit as bit 32 (R99, R118). -/
def dataWord (v : Word) (par : Bool) : BitVec 33 :=
  (BitVec.ofBool par).setWidth 33 <<< 32 ||| v.setWidth 33

/-- The chain-select code of a port kind (R100). -/
def scanIrCode (c : Config) : PortKind → BitVec 32
  | .dp => c.scanIrDp
  | .ap => c.scanIrAp

/-- The 35-bit data-register word from its parts; a read sends 32 zero data bits (R101). -/
def scanWordOf (rnw a2 a3 : Bool) (wdata : Word) : BitVec 35 :=
  (BitVec.ofBool rnw).setWidth 35 ||| ((BitVec.ofBool a2).setWidth 35 <<< 1) |||
    ((BitVec.ofBool a3).setWidth 35 <<< 2) ||| ((if rnw then 0#32 else wdata).setWidth 35 <<< 3)

/-- `ScanWord(sel, wdata)` (R101). -/
def scanWord (sel : Sel) (wdata : Word) : BitVec 35 :=
  scanWordOf (selIsRead sel) (sel.getLsbD 2) (sel.getLsbD 3) wdata

end Sys2Proof.Machine
end

