-- ==== Sys2Proof/Decode.lean ====
section
/-!
DEFINITION. The decoder: steps 1 to 3 of `Decode` (30_encoding.md R84) for command packets, and the layouts of R97 to
R101 for the wire fields. It is total on any bytes and rejects by name. Field legality and the dispatcher state (R84
steps 4 to 7) are checked by the meanings. After it, the encoder, written from the same tables (R81, R97 to R101), and
the numbering of spec/opcode_table.json.
-/

namespace Sys2Proof

open Sys2Proof.Machine

/-- Why a packet or a wire word is rejected. -/
inductive DecodeError where
  /-- The empty packet (R84 step 1, R89). -/
  | emptyPacket
  /-- Byte 0 is 0x00 or 0x09 to 0xFF (R84 step 2, R82). -/
  | unknownOpcode (op : Byte)
  /-- An XFER or QPUSH without its SEL byte (R84 step 3). -/
  | missingSel (op : Byte)
  /-- SEL with a nonzero bit in 7:4 (R84 step 3, R91). -/
  | reservedSel (op : Byte)
  /-- The length is not the L of R83 (R84 step 3). -/
  | wrongLength (op : Byte)
  /-- A wire word with a bit above the width of its field. -/
  | wireTooWide
  /-- A request header whose Start, Stop or Park bit is wrong (R97). -/
  | headerFraming
  /-- A request header whose parity bit is not parity4(SEL) (R97). -/
  | headerParity
  /-- A chain-select code that is neither SCAN_IR_DP nor SCAN_IR_AP (R100). -/
  | unknownChain
  /-- A SCAN.DR read word whose outgoing data bits are not all 0 (R101). -/
  | readWordWithData
  deriving DecidableEq, Repr

/-- The byte 0 of the error response: the packet's opcode byte, 0x00 for the empty packet (R85, R89). Wire words are no
packets and get no response. -/
def DecodeError.opcode : DecodeError → Byte
  | .emptyPacket => 0x00#8
  | .unknownOpcode op => op
  | .missingSel op => op
  | .reservedSel op => op
  | .wrongLength op => op
  | .wireTooWide => 0x00#8
  | .headerFraming => 0x00#8
  | .headerParity => 0x00#8
  | .unknownChain => 0x00#8
  | .readWordWithData => 0x00#8

/-- A packet of the host channel or a word of a wire field. -/
inductive Code where
  | packet (bytes : Packet)
  | wire (word : WireWord)
  deriving DecidableEq, Repr

/-! Opcode bytes (R81). -/

def opInfo : Byte := 0x01#8
def opConnect : Byte := 0x02#8
def opClock : Byte := 0x03#8
def opReset : Byte := 0x04#8
def opXfer : Byte := 0x05#8
def opQpush : Byte := 0x06#8
def opQexec : Byte := 0x07#8
def opAbort : Byte := 0x08#8

/-- The expected length L as a function of the first two bytes, none for an unknown opcode (R83). -/
def packetLength (op b1 : Byte) : Option Nat :=
  if op = opInfo ∨ op = opQexec ∨ op = opAbort then some 1
  else if op = opConnect then some 3
  else if op = opClock then some 5
  else if op = opReset then some 6
  else if op = opXfer ∨ op = opQpush then some (if b1.getLsbD 1 then 2 else 6)
  else none

/-- The payload of an XFER or QPUSH: SEL, then VALUE exactly for a write (R84 step 3, R92, R93). -/
def decodeTransfer (op : Byte) (readForm : Loc → Instr) (writeForm : Loc → Word → Instr) :
    List Byte → Except DecodeError Instr
  | [] => .error (.missingSel op)
  | selByte :: value =>
    if selByte.extractLsb' 4 4 ≠ 0#4 then .error (.reservedSel op)
    else
      let sel : Sel := selByte.extractLsb' 0 4
      if selIsRead sel then
        match value with
        | [] => .ok (readForm (selLoc sel))
        | _ => .error (.wrongLength op)
      else
        match value with
        | [b0, b1, b2, b3] => .ok (writeForm (selLoc sel) (u32le b0 b1 b2 b3))
        | _ => .error (.wrongLength op)

/-- The payload of the other commands, of fixed length (R81). -/
def decodeInfo : List Byte → Except DecodeError Instr
  | [] => .ok .info
  | _ => .error (.wrongLength opInfo)

@[inherit_doc decodeInfo]
def decodeConnect : List Byte → Except DecodeError Instr
  | [disc, flags] => .ok (.connect disc flags)
  | _ => .error (.wrongLength opConnect)

@[inherit_doc decodeInfo]
def decodeClock : List Byte → Except DecodeError Instr
  | [b0, b1, b2, b3] => .ok (.clock (u32le b0 b1 b2 b3))
  | _ => .error (.wrongLength opClock)

@[inherit_doc decodeInfo]
def decodeReset : List Byte → Except DecodeError Instr
  | [level, b0, b1, b2, b3] => .ok (.reset level (u32le b0 b1 b2 b3))
  | _ => .error (.wrongLength opReset)

@[inherit_doc decodeInfo]
def decodeQexec : List Byte → Except DecodeError Instr
  | [] => .ok .qexec
  | _ => .error (.wrongLength opQexec)

@[inherit_doc decodeInfo]
def decodeAbort : List Byte → Except DecodeError Instr
  | [] => .ok .abort
  | _ => .error (.wrongLength opAbort)

/-- Steps 1 to 3 of `Decode` on a command packet (R84). -/
def decodePacket : Packet → Except DecodeError Instr
  | [] => .error .emptyPacket
  | op :: payload =>
    if op = opInfo then decodeInfo payload
    else if op = opConnect then decodeConnect payload
    else if op = opClock then decodeClock payload
    else if op = opReset then decodeReset payload
    else if op = opXfer then decodeTransfer op .xferR .xferW payload
    else if op = opQpush then decodeTransfer op .qpushR .qpushW payload
    else if op = opQexec then decodeQexec payload
    else if op = opAbort then decodeAbort payload
    else .error (.unknownOpcode op)

/-- The width of a wire field in bits (R97 to R101). -/
def wireWidth (c : Config) : WireField → Nat
  | .req => 8
  | .ack => 3
  | .data => 33
  | .ir => c.scanIrLen
  | .dr => 35

/-- The request header: Start = 1, SEL, parity4(SEL), Stop = 0, Park = 1 (R97). -/
def decodeHeader (h : Byte) : Except DecodeError Instr :=
  let sel : Sel := h.extractLsb' 1 4
  if h.getLsbD 0 = false ∨ h.getLsbD 6 = true ∨ h.getLsbD 7 = false then .error .headerFraming
  else if h.getLsbD 5 ≠ parity4 sel then .error .headerParity
  else .ok (.swdReq sel)

/-- The chain-select field (R100). -/
def decodeChain (c : Config) (code : BitVec 32) : Except DecodeError Instr :=
  if code = c.scanIrDp then .ok (.scanIr .dp)
  else if code = c.scanIrAp then .ok (.scanIr .ap)
  else .error .unknownChain

/-- The outgoing data-register word (R101). -/
def decodeScanWord (w : BitVec 35) : Except DecodeError Instr :=
  let data : Word := w.extractLsb' 3 32
  if w.getLsbD 0 = true ∧ data ≠ 0#32 then .error .readWordWithData
  else .ok (.scanDr (w.getLsbD 0) (w.getLsbD 1) (w.getLsbD 2) data)

/-- The decoder of wire words (R97 to R101). -/
def decodeWire (c : Config) (ww : WireWord) : Except DecodeError Instr :=
  if 2 ^ wireWidth c ww.field ≤ ww.bits then .error .wireTooWide
  else
    match ww.field with
    | .req => decodeHeader (BitVec.ofNat 8 ww.bits)
    | .ack => .ok (.swdAck (BitVec.ofNat 3 ww.bits))
    | .data => .ok (.swdData (BitVec.ofNat 32 ww.bits) (ww.bits.testBit 32))
    | .ir => decodeChain c (BitVec.ofNat 32 ww.bits)
    | .dr => decodeScanWord (BitVec.ofNat 35 ww.bits)

/-- The decoder: a packet of the host channel, or a word of a wire field. -/
def decode (c : Config) : Code → Except DecodeError Instr
  | .packet p => decodePacket p
  | .wire ww => decodeWire c ww

/-! The encoder, from the tables of R81 and R97 to R101. -/

/-- SEL as the byte of a packet: the reserved bits 7:4 are 0 (R91, R92). -/
def selByte (loc : Loc) (rnw : Bool) : Byte :=
  (selOf loc rnw).setWidth 8

/-- The packet of a command; a wire field has none and gets the empty list. -/
def encodePacket : Instr → Packet
  | .info => [opInfo]
  | .connect disc flags => [opConnect, disc, flags]
  | .clock freq => opClock :: le32 freq
  | .reset level duration => opReset :: level :: le32 duration
  | .xferR loc => [opXfer, selByte loc true]
  | .xferW loc value => opXfer :: selByte loc false :: le32 value
  | .qpushR loc => [opQpush, selByte loc true]
  | .qpushW loc value => opQpush :: selByte loc false :: le32 value
  | .qexec => [opQexec]
  | .abort => [opAbort]
  | .swdReq _ => []
  | .swdAck _ => []
  | .swdData _ _ => []
  | .scanIr _ => []
  | .scanDr _ _ _ _ => []

/-- The code of an instruction: a packet for a command, a wire word for a wire field. -/
def encode (c : Config) : Instr → Code
  | .info => .packet (encodePacket .info)
  | .connect disc flags => .packet (encodePacket (.connect disc flags))
  | .clock freq => .packet (encodePacket (.clock freq))
  | .reset level duration => .packet (encodePacket (.reset level duration))
  | .xferR loc => .packet (encodePacket (.xferR loc))
  | .xferW loc value => .packet (encodePacket (.xferW loc value))
  | .qpushR loc => .packet (encodePacket (.qpushR loc))
  | .qpushW loc value => .packet (encodePacket (.qpushW loc value))
  | .qexec => .packet (encodePacket .qexec)
  | .abort => .packet (encodePacket .abort)
  | .swdReq sel => .wire { field := .req, bits := (header sel).toNat }
  | .swdAck ack => .wire { field := .ack, bits := ack.toNat }
  | .swdData data par => .wire { field := .data, bits := (dataWord data par).toNat }
  | .scanIr port => .wire { field := .ir, bits := (scanIrCode c port).toNat }
  | .scanDr rnw a2 a3 data =>
    .wire
      { field := .dr
        bits := ((BitVec.ofBool rnw).setWidth 35 ||| ((BitVec.ofBool a2).setWidth 35 <<< 1) |||
          ((BitVec.ofBool a3).setWidth 35 <<< 2) ||| (data.setWidth 35 <<< 3)).toNat }

/-! The numbering of spec/opcode_table.json: bit 0 is the least significant bit of byte 0. -/

/-- The byte at offset i of the number w. -/
def tableByte (w i : Nat) : Byte :=
  BitVec.ofNat 8 (w >>> (8 * i))

/-- The packet whose first bytes the table's word gives: as long as R83 makes it, the bytes above nbits zero; for an
unknown opcode, as long as nbits says. -/
def tablePacket (nbits w : Nat) : Packet :=
  let len := (packetLength (tableByte w 0) (tableByte w 1)).getD ((nbits + 7) / 8)
  (List.range len).map (tableByte w)

/-- What a word of the opcode table is. A wire row is known by its exact width (3, 4, 33, 35 bits, no whole number of
bytes; SCAN.IR at its default width) or, for the 8-bit SWD.REQ, by its fixed bits, which no opcode byte has; every other
word is a packet. DESIGN CHOICE, log entry 18. -/
def tableCode (nbits w : Nat) : Code :=
  let v := w % 2 ^ nbits
  if nbits = 3 then .wire { field := .ack, bits := v }
  else if nbits = 4 then .wire { field := .ir, bits := v }
  else if nbits = 33 then .wire { field := .data, bits := v }
  else if nbits = 35 then .wire { field := .dr, bits := v }
  else if nbits = 8 ∧ v &&& 0xC1 = 0x81 then .wire { field := .req, bits := v }
  else .packet (tablePacket nbits v)

/-- The instruction the decoder reads from a word numbered as the opcode table numbers it. -/
def decodeTableWord (nbits w : Nat) : Option Instr :=
  match decode Config.cfgEx (tableCode nbits w) with
  | .ok i => some i
  | .error _ => none

end Sys2Proof
end

