-- ==== Sys2Proof/Machine/State.lean ====
section
/-!
DEFINITION. The state of DPSE (10_state.md R20), its reset value (R50), the reasons a step can stop, and the inputs and
outputs of the step (00_scope.md R19), which the form of `exec` puts into the state.
-/

namespace Sys2Proof.Machine

open Sys2Proof

/-- Line discipline, the values of S.DISC (R22); the encoding 3 is never held. -/
inductive Disc where
  | none
  | swd
  | scan
  deriving DecidableEq, Repr

/-- Dispatcher state, the values of S.DSTATE (R27). -/
inductive DState where
  | idle
  | connected
  | queuing
  | executing
  deriving DecidableEq, Repr

/-- The values of S.IR_STATE (R29); the encoding 3 is never held. -/
inductive IrState where
  | none
  | dp
  | ap
  deriving DecidableEq, Repr

/-- The ten statuses of 60_exceptions.md R250; their codes are `Status.code` in Machine/Flags.lean. -/
inductive Status where
  | ok
  | wait
  | fault
  | parityErr
  | timeout
  | queueFull
  | notExecuted
  | badCommand
  | noAck
  | badState
  deriving DecidableEq, Repr

/-- The Session State (R21 to R29). -/
structure Session where
  /-- S.HALF, in ticks (R21). -/
  half : Nat
  /-- S.DISC (R22). -/
  disc : Disc
  /-- S.RST, true = asserted (R23). -/
  rst : Bool
  /-- S.AOE (R25). -/
  aoe : Bool
  /-- S.ERR_CNT (R26). -/
  errCnt : BitVec 16
  /-- S.OVR_CNT (R28). -/
  ovrCnt : BitVec 16
  /-- S.DSTATE (R27). -/
  dstate : DState
  /-- S.IR_STATE (R29). -/
  irState : IrState
  deriving DecidableEq, Repr

/-- An Operation record (R30). STATUS is its 8-bit code. -/
structure Op where
  sel : Sel
  wdata : Word
  rvalue : Word
  status : Byte
  deriving DecidableEq, Repr, Inhabited

/-- The Transfer Queue (R31): the slots, QHEAD and QCOUNT. -/
structure Queue where
  slots : List Op
  head : Nat
  count : Nat
  deriving DecidableEq, Repr

/-- The driven pin signals (R40). PIN.RST_O is `State.rstO`; the inputs are the samples of `Wire.answers`. -/
structure Pins where
  clkO : Bool
  clkOE : Bool
  dioO : Bool
  dioOE : Bool
  deriving DecidableEq, Repr

/-- The working registers W.* (R24). -/
structure Work where
  op : BitVec 8
  sel : BitVec 4
  wdata : BitVec 32
  rdata : BitVec 32
  shift : BitVec 35
  ack : BitVec 3
  par : Bool
  bitcnt : BitVec 6
  h : Nat
  retry : BitVec 8
  st : BitVec 8
  idx : BitVec 8
  total : BitVec 8
  executed : BitVec 8
  failidx : BitVec 8
  bstatus : BitVec 8
  stopped : Bool
  deriving DecidableEq, Repr

/-- The two timers: PHASE_CNT (R44) and RST_TMR (R45). -/
structure Timers where
  phaseCnt : Nat
  rstTmr : BitVec 64
  deriving DecidableEq, Repr

/-- An event of the wire trace (40_serial_driver.md R113). -/
inductive WireEvent where
  /-- D(b, h): a cycle in which DPSE drives b. -/
  | drive (b : Bool) (h : Nat)
  /-- S(b, h): a cycle in which DPSE samples b. -/
  | sample (b : Bool) (h : Nat)
  /-- T(h): a turnaround cycle. -/
  | turn (h : Nat)
  /-- X(o, i, h): a scan cycle, o out and i in. -/
  | scan (o i : Bool) (h : Nat)
  /-- RL(l): the reset line goes to level l. -/
  | resetLine (l : Bool)
  /-- HOLD(n): n ticks with no change. -/
  | hold (n : Nat)
  deriving DecidableEq, Repr

/-- One tick of `clk_sys` inside a clock cycle: the level on the clock line, the level DPSE drives on the data line (none
when it does not drive it), whether DPSE samples its data input on this tick, and PHASE_CNT (R44, R124). -/
structure Tick where
  clk : Bool
  dio : Option Bool
  sampled : Bool
  phaseCnt : Nat
  deriving DecidableEq, Repr

/-- Where in a command a hardware reset falls (70 R280, 93 U17): after `events` whole wire events of it and `ticks` ticks of
the next one, up to all of them (the reset then falls on the edge that would have ended it). Log entry 10. -/
structure ResetCut where
  events : Nat
  ticks : Nat
  deriving DecidableEq, Repr

/-- What a hardware reset inside a command cut short (70 R280): the place in the trace of the event in flight, how many of
its ticks have passed (0 before its first, all at the edge that would have ended it), the ticks of the cut clock cycle (none for HOLD), and the level
the clock line had when it stopped being driven (none where it was not driven). -/
structure CutShort where
  place : Nat
  ticks : Nat
  shown : List Tick
  clk : Option Bool
  deriving DecidableEq, Repr

/-- The host's side of the channel (R42, 20_memory.md R75) and the reset port (R43). `rspOut` is an output; the rest are
inputs that no command writes but for `cmdIn`, from which a step takes the packet it accepts. -/
structure HostPort where
  /-- `rst_n`: false holds DPSE in hardware reset (R43, R280). -/
  rstN : Bool
  /-- A hardware reset falls inside the next command, at the given place (R280, 93 U17). -/
  rstCut : Option ResetCut
  /-- The packets on offer, the next one first. -/
  cmdIn : List Packet
  /-- `rsp_ready`: the host side takes a finished response. -/
  rspReady : Bool
  /-- The responses the host has taken, in order. -/
  rspOut : List Packet
  deriving DecidableEq, Repr

/-- The wire: the target's answers, the trace, what resets cut short, and the codec's own entry. -/
structure Wire where
  /-- Input: the levels the target presents at the coming samples (20_memory.md R72). -/
  answers : List Bool
  /-- How many samples have been taken: the index of the next free level when `answers` is used up. -/
  drawn : Nat
  /-- Output: the wire trace of the session (R70, R113). -/
  trace : List WireEvent
  /-- Output: what hardware resets inside commands cut short, in order (70 R280). Log entry 10. -/
  cuts : List CutShort
  /-- A wire field handed to the codec as a step of its own, the finer level of 00_scope.md R9; no command writes it.
  DESIGN CHOICE, log entry 8. -/
  field : Option WireWord
  deriving DecidableEq, Repr

/-- The state of DPSE with the inputs and outputs of its step. -/
structure State where
  /-- The configuration of R10, fixed for the machine: no step changes it. -/
  cfg : Config
  /-- Session State, S.* -/
  ses : Session
  /-- Transfer Queue, Q, QHEAD, QCOUNT. -/
  queue : Queue
  /-- Pin signals, PIN.* -/
  pin : Pins
  /-- Working registers, W.* -/
  work : Work
  /-- PHASE_CNT, RST_TMR. -/
  timers : Timers
  /-- RSPBUF (R36): the response being built or on offer; empty when there is none. -/
  rspBuf : Packet
  /-- Host channel and reset port. -/
  host : HostPort
  /-- Target answers, wire trace, codec entry. -/
  wire : Wire
  /-- The index of the next `unspecified` value (`Config.free`). The model's own field, log entry 4. -/
  free : Nat
  deriving DecidableEq, Repr

/-- Why a step stops with a fault. -/
inductive Fault where
  /-- A driver primitive would be called outside its precondition, for which the spec gives no behaviour (40 R126; 41
  R155 `unreachable`): raised by XFER and QEXEC when no discipline is selected or the lines are not driven, and by the
  wire fields outside their discipline. No command raises it in a state of the invariant. Safe: the machine stops. -/
  | codecPrecondition
  deriving DecidableEq, Repr

/-- Why an instruction is refused. -/
inductive Refusal where
  /-- An arm of `exec` without a meaning; none is left. Safe: nothing runs. -/
  | notModelled (mnemonic : String)
  /-- Raised by `step` when the word handed to the codec is no word of that wire field (30 R97 to R101). Safe: nothing
  runs. -/
  | badWireWord
  deriving DecidableEq, Repr

/-- The result type of a step. -/
abbrev Result := Host.Outcome State Fault Refusal

/-! The setters, one per field; Laws/State.lean says of each what it leaves. -/

def State.setSes (s : State) (v : Session) : State := { s with ses := v }
def State.setQueue (s : State) (v : Queue) : State := { s with queue := v }
def State.setPin (s : State) (v : Pins) : State := { s with pin := v }
def State.setWork (s : State) (v : Work) : State := { s with work := v }
def State.setTimers (s : State) (v : Timers) : State := { s with timers := v }
def State.setRsp (s : State) (v : Packet) : State := { s with rspBuf := v }
def State.setHost (s : State) (v : HostPort) : State := { s with host := v }
def State.setWire (s : State) (v : Wire) : State := { s with wire := v }
def State.setFree (s : State) (v : Nat) : State := { s with free := v }

/-- The Session State after hardware reset (R50). -/
def Session.reset (c : Config) : Session where
  half := c.halfReset
  disc := .none
  rst := false
  aoe := false
  errCnt := 0#16
  ovrCnt := 0#16
  dstate := .idle
  irState := .none

/-- A slot after reset; the spec leaves it unspecified. DESIGN CHOICE zero, log entry 2: unsafe. -/
def Op.reset : Op where
  sel := 0#4
  wdata := 0#32
  rvalue := 0#32
  status := 0#8

/-- The empty queue (R50). -/
def Queue.reset (c : Config) : Queue where
  slots := List.replicate c.qcap Op.reset
  head := 0
  count := 0

/-- The pins after reset: not driven (R50); the undriven levels are unspecified. DESIGN CHOICE zero, log entry 2. -/
def Pins.reset : Pins where
  clkO := false
  clkOE := false
  dioO := false
  dioOE := false

/-- The working registers after reset; the spec leaves them unspecified. DESIGN CHOICE zero, log entry 2: unsafe. -/
def Work.reset : Work where
  op := 0#8
  sel := 0#4
  wdata := 0#32
  rdata := 0#32
  shift := 0#35
  ack := 0#3
  par := false
  bitcnt := 0#6
  h := 0
  retry := 0#8
  st := 0#8
  idx := 0#8
  total := 0#8
  executed := 0#8
  failidx := 0#8
  bstatus := 0#8
  stopped := false

/-- The timers after reset: idle, unspecified (R50). DESIGN CHOICE zero, log entry 2: unsafe. -/
def Timers.reset : Timers where
  phaseCnt := 0
  rstTmr := 0#64

/-- The host's side at the start: out of reset, nothing offered, ready to take. DESIGN CHOICE, log entry 6. -/
def HostPort.reset : HostPort where
  rstN := true
  rstCut := .none
  cmdIn := []
  rspReady := true
  rspOut := []

/-- The wire at the start: no answers listed, nothing traced. DESIGN CHOICE, log entries 3 and 8. -/
def Wire.reset : Wire where
  answers := []
  drawn := 0
  trace := []
  cuts := []
  field := .none

/-- The machine right after reset (R50), for a configuration. -/
def State.resetWith (c : Config) : State where
  cfg := c
  ses := Session.reset c
  queue := Queue.reset c
  pin := Pins.reset
  work := Work.reset
  timers := Timers.reset
  rspBuf := []
  host := HostPort.reset
  wire := Wire.reset
  free := 0

/-- The machine right after reset, under CFG_EX (log entry 1). -/
def State.reset : State :=
  State.resetWith Config.cfgEx

end Sys2Proof.Machine
end

