-- ==== Sys2Proof/Machine/Flags.lean ====
section
/-!
DEFINITION. Every flag and status computation: status codes (60_exceptions.md R250), the acknowledgement parser
(41_transaction_codec.md R143), the parity check (R149), which statuses count and which stop a batch
(43_transfer_commands.md R213, R224), saturation (10_state.md R26, R28) and the derived flags (R33).
-/

namespace Sys2Proof.Machine

open Sys2Proof

/-- The status byte (R250). -/
def Status.code : Status → Byte
  | .ok => 0x00#8
  | .wait => 0x01#8
  | .fault => 0x02#8
  | .parityErr => 0x03#8
  | .timeout => 0x04#8
  | .queueFull => 0x05#8
  | .notExecuted => 0x06#8
  | .badCommand => 0x07#8
  | .noAck => 0x08#8
  | .badState => 0x09#8

/-- ACKP: the class of a 3-bit acknowledgement, first sampled bit in bit 0 (R98, R143). -/
def ackClass (ack : BitVec 3) : Status :=
  if ack = 0b001#3 then .ok
  else if ack = 0b010#3 then .wait
  else if ack = 0b100#3 then .fault
  else .noAck

/-- The status of a read whose acknowledgement was OK: the sampled parity bit against the sampled data (R149). -/
def readStatus (rdata : Word) (par : Bool) : Status :=
  if par ≠ parity32 rdata then .parityErr else .ok

/-- The statuses S.ERR_CNT counts (R213). -/
def Status.counted : Status → Bool
  | .ok => false
  | .wait => true
  | .fault => true
  | .parityErr => true
  | .timeout => true
  | .queueFull => false
  | .notExecuted => false
  | .badCommand => false
  | .noAck => true
  | .badState => false

/-- The statuses that stop a batch when S.AOE = 1 (R224). -/
def Status.stops : Status → Bool
  | .ok => false
  | .wait => false
  | .fault => true
  | .parityErr => true
  | .timeout => false
  | .queueFull => false
  | .notExecuted => false
  | .badCommand => false
  | .noAck => true
  | .badState => false

/-- `sat16(v + 1)` of a 16-bit counter (R14, R26, R28). -/
def satInc (v : BitVec 16) : BitVec 16 :=
  if v = 0xFFFF#16 then 0xFFFF#16 else v + 1#16

/-- ERR_FLAG = (S.ERR_CNT != 0) (R33). -/
def errFlag (s : State) : Bool :=
  s.ses.errCnt != 0#16

/-- OVR_FLAG = (S.OVR_CNT != 0) (R33). -/
def ovrFlag (s : State) : Bool :=
  s.ses.ovrCnt != 0#16

/-- A flag as a byte. -/
def boolByte (b : Bool) : Byte :=
  if b then 1#8 else 0#8

/-- CAPS, the capability byte of INFO: bit 0 = 1, bit 1 = HAS_AUX (R182). -/
def caps (c : Config) : Byte :=
  if c.hasAux then 0x03#8 else 0x01#8

end Sys2Proof.Machine
end

