-- ==== Sys2Proof/Machine/Timing.lean ====
section
/-!
DEFINITION. The tick level (40_serial_driver.md R116, R120, R124, R125; 10_state.md R44; 70_reset_and_hazards.md R302,
R303): what one clock cycle of the wire trace is, tick by tick, and how long events last. It carries timing only
(00_scope.md R9); of the step, only the record of a cycle cut short by a hardware reset is made from it (70 R280). Gaps
between primitives, transactions and commands are unspecified and taken as zero: log entry 12.
-/

namespace Sys2Proof.Machine

open Sys2Proof

/-- One clock phase of h ticks: PHASE_CNT is loaded with h and counts down (R44). -/
def clockPhase (level : Bool) (dio : Option Bool) (h : Nat) : List Tick :=
  (List.range h).map fun i => { clk := level, dio := dio, sampled := false, phaseCnt := h - i }

/-- Mark the sample point of a low phase: its last tick (R120, R124). -/
def markSample (h : Nat) (low : List Tick) : List Tick :=
  low.mapIdx fun i t => if i + 1 = h then { t with sampled := true } else t

/-- `clock_pulse(h)`: a low phase of h ticks, then a high phase of h ticks (R112, R116). -/
def clockPulse (dio : Option Bool) (samples : Bool) (h : Nat) : List Tick :=
  let low := clockPhase false dio h
  (if samples then markSample h low else low) ++ clockPhase true dio h

/-- The ticks of an event's clock cycle (R113, R124); RL and HOLD make no clock cycle. -/
def timeline : WireEvent → List Tick
  | .drive b h => clockPulse (some b) false h
  | .sample _ h => clockPulse none true h
  | .turn h => clockPulse none false h
  | .scan o _ h => clockPulse (some o) true h
  | .resetLine _ => []
  | .hold _ => []

/-- How long an event lasts, in ticks (R113, R125). -/
def eventTicks : WireEvent → Nat
  | .drive _ h => 2 * h
  | .sample _ h => 2 * h
  | .turn h => 2 * h
  | .scan _ _ h => 2 * h
  | .resetLine _ => 0
  | .hold n => n

/-- How long a trace lasts, in ticks, with gaps zero (R302, R303). -/
def traceTicks (evs : List WireEvent) : Nat :=
  (evs.map eventTicks).sum

/-- The half-period an event carries; none for RL and HOLD (R113). -/
def eventHalf : WireEvent → Option Nat
  | .drive _ h => some h
  | .sample _ h => some h
  | .turn h => some h
  | .scan _ _ h => some h
  | .resetLine _ => none
  | .hold _ => none

end Sys2Proof.Machine
end

