-- ==== Sys2Proof/Machine/Ops.lean ====
section
/-!
DEFINITION. The named operations over the state: session registers, pins, queue, wire, response buffer, the error
response (DPSE's "taking an exception", 60_exceptions.md R261, and 30_encoding.md R88), the host channel and hardware
reset. There is no return from an exception to model: nothing was entered (R263).
-/

namespace Sys2Proof.Machine

open Sys2Proof

/-! Signals computed from the state. -/

/-- PIN.RST_O, equal to S.RST at all times (10_state.md R23, R40). -/
def rstO (s : State) : Bool :=
  s.ses.rst

/-- `cmd_ready`: out of hardware reset, and no response on offer (R42, 70 R280). -/
def cmdReady (s : State) : Bool :=
  s.host.rstN && s.rspBuf.isEmpty

/-- `rsp_valid`: a response is on offer (R42). -/
def rspValid (s : State) : Bool :=
  s.host.rstN && !s.rspBuf.isEmpty

/-! Unspecified values (93 part 2), all from `Config.free`: log entry 4. -/

/-- An unspecified value of a HALF_BITS-bit register. -/
def freeHalf (c : Config) (n : Nat) : Nat :=
  (Config.free 32 n).toNat % (halfMax c + 1)

/-- An unspecified bit. -/
def freeBit (n : Nat) : Bool :=
  (Config.free 1 n).getLsbD 0

/-- Unspecified working registers (R24, 93 U1); uses 17 indices. -/
def freeWork (c : Config) (n : Nat) : Work where
  op := Config.free 8 n
  sel := Config.free 4 (n + 1)
  wdata := Config.free 32 (n + 2)
  rdata := Config.free 32 (n + 3)
  shift := Config.free 35 (n + 4)
  ack := Config.free 3 (n + 5)
  par := freeBit (n + 6)
  bitcnt := Config.free 6 (n + 7)
  h := freeHalf c (n + 8)
  retry := Config.free 8 (n + 9)
  st := Config.free 8 (n + 10)
  idx := Config.free 8 (n + 11)
  total := Config.free 8 (n + 12)
  executed := Config.free 8 (n + 13)
  failidx := Config.free 8 (n + 14)
  bstatus := Config.free 8 (n + 15)
  stopped := freeBit (n + 16)

/-- Unspecified timers (R44, R45, 93 U4); uses 2 indices. -/
def freeTimers (c : Config) (n : Nat) : Timers where
  phaseCnt := freeHalf c n
  rstTmr := Config.free 64 (n + 1)

/-- An unspecified queue slot (R31, 93 U2); uses 4 indices. -/
def freeOp (n : Nat) : Op where
  sel := Config.free 4 n
  wdata := Config.free 32 (n + 1)
  rvalue := Config.free 32 (n + 2)
  status := Config.free 8 (n + 3)

/-- Between commands the working registers and the timers are unspecified (R24, R44, R45). -/
def dropWork (s : State) : State :=
  ((s.setWork (freeWork s.cfg s.free)).setTimers (freeTimers s.cfg (s.free + 17))).setFree (s.free + 19)

/-- W.SHIFT holds a free value: what it holds between two wire fields run alone is not said (10_state.md R24, 40 R118,
R121). Log entry 27. -/
def dropShift (s : State) : State :=
  (s.setWork { s.work with shift := Config.free 35 s.free }).setFree (s.free + 1)

/-! The response and the error response. -/

/-- W.OP <- the opcode byte of the command in flight (R24). -/
def setOp (op : Byte) (s : State) : State :=
  s.setWork { s.work with op := op }

/-- `respond(bytes)`: the response packet of the command is `bytes`; the command ends (00_scope.md R14). It waits in
RSPBUF until the host takes it (20_memory.md R75). -/
def respond (bytes : Packet) (s : State) : State :=
  (dropWork s).setRsp bytes

/-- The state after `raise ST`: the 2-byte error response [opcode byte, ST] and no state change (R88, R261). -/
def errorResponse (st : Status) (s : State) : State :=
  respond [s.work.op, st.code] s

/-- `raise ST`: end the command now with the error response (00_scope.md R14, 30_encoding.md R88). -/
def raise (st : Status) (s : State) : Result :=
  .next (errorResponse st s)

/-! Session State. -/

/-- `pc <- v` of the spec's notation: S.DSTATE <- v (00_scope.md R14). -/
def setDState (v : DState) (s : State) : State :=
  s.setSes { s.ses with dstate := v }

/-- S.HALF <- h (R21). -/
def setHalf (h : Nat) (s : State) : State :=
  s.setSes { s.ses with half := h }

/-- S.IR_STATE <- v (R29). -/
def setIrState (v : IrState) (s : State) : State :=
  s.setSes { s.ses with irState := v }

/-- S.AOE <- v (R25). -/
def setAoe (v : Bool) (s : State) : State :=
  s.setSes { s.ses with aoe := v }

/-- S.ERR_CNT <- 0, S.OVR_CNT <- 0, S.IR_STATE <- IR_NONE: what CONNECT and ABORT both clear (R51). -/
def clearSession (s : State) : State :=
  s.setSes { s.ses with errCnt := 0#16, ovrCnt := 0#16, irState := .none }

/-- Count one executed Operation's final status in S.ERR_CNT (43_transfer_commands.md R213). -/
def countError (st : Status) (s : State) : State :=
  if st.counted then s.setSes { s.ses with errCnt := satInc s.ses.errCnt } else s

/-- Count one refused QPUSH in S.OVR_CNT (43_transfer_commands.md R218). -/
def countOverrun (s : State) : State :=
  s.setSes { s.ses with ovrCnt := satInc s.ses.ovrCnt }

/-! Wire trace and target. -/

/-- `emit(ev)`: append events to the wire trace (00_scope.md R14, 40_serial_driver.md R113). -/
def emit (evs : List WireEvent) (s : State) : State :=
  s.setWire { s.wire with trace := s.wire.trace ++ evs }

/-- The levels of the next n samples: the listed answers, then free levels (20_memory.md R72). -/
def targetBits (n : Nat) (s : State) : List Bool :=
  (List.range n).map fun i => s.wire.answers.getD i (Config.targetBit (s.wire.drawn + i))

/-- Use up n answers of the target. -/
def consume (n : Nat) (s : State) : State :=
  s.setWire { s.wire with answers := s.wire.answers.drop n, drawn := s.wire.drawn + n }

/-- Put levels in front of the target's answers: the content of a sampled wire word. Log entry 8. -/
def feed (bits : List Bool) (s : State) : State :=
  s.setWire { s.wire with answers := bits ++ s.wire.answers }

/-! Pins. -/

/-- Both lines driven low: PIN.CLK_OE <- 1, PIN.CLK_O <- 0, PIN.DIO_OE <- 1, PIN.DIO_O <- 0 (42 R183, 10 R41). -/
def driveLines (s : State) : State :=
  s.setPin { clkO := false, clkOE := true, dioO := false, dioOE := true }

/-- Both lines released; the undriven levels are unspecified (42 R192, 93 U3). -/
def releaseLines (s : State) : State :=
  (s.setPin { clkO := freeBit s.free, clkOE := false, dioO := freeBit (s.free + 1), dioOE := false }).setFree
    (s.free + 2)

/-- PIN.DIO_O <- b. -/
def setDio (b : Bool) (s : State) : State :=
  s.setPin { s.pin with dioO := b }

/-- S.DISC <- d, S.DSTATE <- Connected, lines driven low: a discipline is selected (42 R183). -/
def selectDiscipline (d : Disc) (s : State) : State :=
  driveLines (s.setSes { s.ses with disc := d, dstate := .connected })

/-- The reset line goes to level l: S.RST <- l, and PIN.RST_O with it (42 R189). -/
def setResetLine (l : Bool) (s : State) : State :=
  emit [.resetLine l] (s.setSes { s.ses with rst := l })

/-! The Transfer Queue (R31; 43 R216, R219, R220). -/

/-- The slot of logical index k: (QHEAD + k) mod QCAP (R31). -/
def slotOf (c : Config) (q : Queue) (k : Nat) : Nat :=
  (q.head + k) % c.qcap

/-- The held entries, oldest first (R31, R63). -/
def entries (c : Config) (q : Queue) : List Op :=
  (List.range q.count).map fun k => q.slots.getD (slotOf c q k) default

/-- `enqueue`: none when full; else the Operation, with the rest of its record unspecified, in the slot behind the newest
(R216). A read has no WDATA: it stays unspecified (R30). -/
def enqueue (sel : Sel) (wdata : Option Word) (s : State) : Option State :=
  if s.queue.count = s.cfg.qcap then none
  else
    let blank := freeOp s.free
    let op : Op := { blank with sel := sel, wdata := wdata.getD blank.wdata }
    some
      ((s.setQueue
            { s.queue with
              slots := s.queue.slots.set (slotOf s.cfg s.queue s.queue.count) op
              count := s.queue.count + 1 }).setFree
        (s.free + 4))

/-- The result slot of an Operation, filled in after execution: STATUS and RVALUE (R30, R222). -/
def fillResult (st : Status) (value : Word) (e : Op) : Op :=
  { e with rvalue := value, status := st.code }

/-- An Operation marked not-executed: STATUS alone is written (R30, R225). -/
def markNotExecuted (e : Op) : Op :=
  { e with status := Status.notExecuted.code }

/-- `dequeue`'s entry: the oldest one (R219). -/
def oldest (s : State) : Op :=
  s.queue.slots.getD s.queue.head default

/-- `dequeue`'s effect: QHEAD moves on modulo QCAP, QCOUNT goes down, the vacated slot becomes unspecified (R219, R31). -/
def dropOldest (s : State) : State :=
  (s.setQueue
      { slots := s.queue.slots.set s.queue.head (freeOp s.free)
        head := (s.queue.head + 1) % s.cfg.qcap
        count := s.queue.count - 1 }).setFree
    (s.free + 4)

/-- `clear`: QCOUNT <- 0, QHEAD <- 0, the slots unspecified (R220). -/
def clearQueue (s : State) : State :=
  (s.setQueue
      { slots := (List.range s.cfg.qcap).map fun i => freeOp (s.free + 4 * i)
        head := 0
        count := 0 }).setFree
    (s.free + 4 * s.cfg.qcap)

/-! The host channel and hardware reset. -/

/-- Accept the packet on offer: it leaves the channel and its opcode byte goes to W.OP, 0x00 for the empty packet
(10_state.md R24, R42). -/
def accept (p : Packet) (rest : List Packet) (s : State) : State :=
  setOp (p.headD 0x00#8) (s.setHost { s.host with cmdIn := rest })

/-- Hand the response over: RSPBUF empties (R36, 20_memory.md R75). -/
def handOver (s : State) : State :=
  (s.setHost { s.host with rspOut := s.host.rspOut ++ [s.rspBuf] }).setRsp []

/-- Hardware reset: every piece of DPSE's own state at the value of R50 (70 R280). The configuration, the inputs and what
has already been handed out (responses, trace) are not state of DPSE and stay: log entry 19. -/
def hwReset (s : State) : State :=
  { State.resetWith s.cfg with host := s.host, wire := { s.wire with field := none }, free := s.free }

/-- Does the event take a sample of the target (40 R120)? -/
def isSample : WireEvent → Bool
  | .drive _ _ => false
  | .sample _ _ => true
  | .turn _ => false
  | .scan _ _ _ => true
  | .resetLine _ => false
  | .hold _ => false

/-- What a hardware reset at `cut` cuts short of a command accepted in `s` whose wire events are `evs`: the ticks of the
event in flight that have passed, which may be all of them, since only the edge that ends an event makes it whole. The
clock line, if DPSE drives it, is left at the level of the last tick that passed (after all 2h ticks of a cycle, high: the
reset falls on the falling edge in its place), and low, as at rest, before the first tick of an event and in HOLD (70
R280, 40 R112, R116, R124). Log entry 10. -/
def cutShort (cut : ResetCut) (evs : List WireEvent) (s : State) : CutShort :=
  let ticks := (evs[cut.events]?.map fun e => min cut.ticks (eventTicks e)).getD 0
  let shown := ((evs[cut.events]?.map timeline).getD []).take ticks
  { place := s.wire.trace.length + min cut.events evs.length
    ticks := ticks
    shown := shown
    clk := if s.pin.clkOE then some ((shown.getLast?.map Tick.clk).getD false) else none }

/-- A hardware reset at `cut` of the command that took `s` to `t`: the command is abandoned without a response, DPSE is in
the reset state; the whole events before the cut have happened, and the one in flight is recorded as cut short, with the
sample it may have taken used up (70 R280, 93 U17). Log entry 10. -/
def abandon (cut : ResetCut) (s t : State) : State :=
  let evs := t.wire.trace.drop s.wire.trace.length
  let done := evs.take cut.events
  let short := cutShort cut evs s
  let r := hwReset (emit done (consume (done.countP isSample + short.shown.countP Tick.sampled) s))
  (r.setHost { r.host with rstCut := none }).setWire { r.wire with cuts := r.wire.cuts ++ [short] }

end Sys2Proof.Machine
end

