-- ==== Sys2Proof/Machine/Session.lean ====
section
/-!
DEFINITION. The meanings of the session commands INFO, CONNECT, CLOCK, RESET and ABORT (42_session_commands.md). Each
runs after steps 1 to 3 of `Decode` (30_encoding.md R84) and makes steps 4 and 5 itself, in that order.
-/

namespace Sys2Proof.Machine

open Sys2Proof

/-- The INFO response, a constant of the configuration (R181, R182). -/
def infoResponse (c : Config) : Packet :=
  [opInfo, Status.ok.code, c.infoVersion, caps c, BitVec.ofNat 8 c.qcap, BitVec.ofNat 8 c.waitRetryMax] ++
    le32 (BitVec.ofNat 32 (fMax c)) ++ le32 (BitVec.ofNat 32 (fMin c))

/-- INFO (R181). -/
def execInfo (s : State) : Result :=
  .next (respond (infoResponse s.cfg) (setOp opInfo s))

/-- The response of CONNECT and ABORT: the counters as they were before the clear (R183, R192). -/
def counterResponse (op : Byte) (ses : Session) : Packet :=
  [op, Status.ok.code] ++ le16 ses.errCnt ++ le16 ses.ovrCnt

/-- The discipline a legal DISC byte names: 1 = SWD, 2 = SCAN (R183). -/
def discOf (disc : Byte) : Disc :=
  if disc = 1#8 then .swd else .scan

/-- CONNECT (R183, R184). -/
def execConnect (disc flags : Byte) (s : State) : Result :=
  let s0 := setOp opConnect s
  if disc ≠ 1#8 ∧ disc ≠ 2#8 then raise .badCommand s0
  else if disc = 2#8 ∧ s0.cfg.hasAux = false then raise .badCommand s0
  else if flags.extractLsb' 1 7 ≠ 0#7 then raise .badCommand s0
  else if s0.ses.dstate = .queuing then raise .badState s0
  else
    .next
      (respond (counterResponse opConnect s0.ses)
        (selectDiscipline (discOf disc) (clearSession (setAoe (flags.getLsbD 0) s0))))

/-- The half-period of a requested rate: max(HALF_MIN, ceil(F_SYS / (2 * FREQ))) (R186, R187). -/
def halfFor (c : Config) (freq : Nat) : Nat :=
  max c.halfMin (ceilDiv c.fSys (2 * freq))

/-- The achieved rate in whole hertz: floor(F_SYS / (2 * h)) (R186, R187). -/
def rateOf (c : Config) (h : Nat) : Nat :=
  c.fSys / (2 * h)

/-- CLOCK (R186, R188). -/
def execClock (freq : Word) (s : State) : Result :=
  let s0 := setOp opClock s
  if freq.toNat < fMin s0.cfg then raise .badCommand s0
  else
    let h := halfFor s0.cfg freq.toNat
    .next (respond ([opClock, Status.ok.code] ++ le32 (BitVec.ofNat 32 (rateOf s0.cfg h))) (setHalf h s0))

/-- The ticks of a timed RESET: ceil(DURATION * F_SYS / 1000000), on naturals (R190). -/
def resetTicks (c : Config) (duration : Word) : Nat :=
  ceilDiv (duration.toNat * c.fSys) 1000000

/-- The timed part of RESET: RST_TMR counts n ticks, then the line goes to the opposite level (R189, 10 R45). -/
def holdThenFlip (level : Bool) (n : Nat) (s : State) : State :=
  setResetLine (!level) (emit [.hold n] (s.setTimers { s.timers with rstTmr := BitVec.ofNat 64 n }))

/-- RESET (R189, R190). -/
def execReset (level : Byte) (duration : Word) (s : State) : Result :=
  let s0 := setOp opReset s
  if 1 < level.toNat then raise .badCommand s0
  else
    let l := level.getLsbD 0
    let s1 := setResetLine l s0
    let s2 := if duration = 0#32 then s1 else holdThenFlip l (resetTicks s1.cfg duration) s1
    .next (respond [opReset, Status.ok.code, boolByte s2.ses.rst] s2)

/-- ABORT (R192). -/
def execAbort (s : State) : Result :=
  let s0 := setOp opAbort s
  let s1 := clearSession (clearQueue s0)
  .next
    (respond (counterResponse opAbort s0.ses)
      (releaseLines (s1.setSes { s1.ses with disc := .none, dstate := .idle })))

end Sys2Proof.Machine
end

