-- ==== Sys2Proof/Machine/Driver.lean ====
section
/-!
DEFINITION. The Bit-Timed Serial Driver (40_serial_driver.md): the primitives write_bits, read_bits, turnaround and
shift_bits at the level of the wire trace. `clock_pulse` and the tick level are Machine/Timing.lean. Every primitive
latches W.H at its start (R115), runs its fixed number of cycles, and leaves the clock low (R112).
-/

namespace Sys2Proof.Machine

open Sys2Proof

/-- The start of a primitive of `count` cycles: W.H <- S.HALF (R115), W.SHIFT and W.BITCNT loaded (10 R24). -/
def latch (word : BitVec 35) (count : Nat) (s : State) : State :=
  s.setWork { s.work with h := s.ses.half, shift := word, bitcnt := BitVec.ofNat 6 count }

/-- The end of a primitive: no bits left, the clock at rest low, PHASE_CNT idle and unspecified (R112, R123, 10 R44). -/
def endPrimitive (s : State) : State :=
  (((s.setWork { s.work with bitcnt := 0#6 }).setPin { s.pin with clkO := false }).setTimers
      { s.timers with phaseCnt := freeHalf s.cfg s.free }).setFree
    (s.free + 1)

/-- `write_bits(bits, count)`: one D event per bit, bit 0 first; PIN.DIO_O keeps the last bit (R118). What W.SHIFT holds
after it is not said, and nothing reads it: here the word that was loaded, and a free value at the end of the step
(`dropShift`, `dropWork`). DESIGN CHOICE, log entry 27: safe. -/
def writeBits {n : Nat} (bits : BitVec n) (count : Nat) (s : State) : State :=
  let s1 := latch (bits.setWidth 35) count s
  let levels := bitsLsbFirst bits count
  endPrimitive (setDio (levels.getLastD s1.pin.dioO) (emit (levels.map fun b => .drive b s1.work.h) s1))

/-- `read_bits(count)`: one S event per sample; the result is left in W.SHIFT, first sampled bit in bit 0 (R119, R120). -/
def readBits (count : Nat) (s : State) : State :=
  let levels := targetBits count s
  let s1 := latch (BitVec.ofNat 35 (natOfBits levels)) count s
  endPrimitive (consume count (emit (levels.map fun b => .sample b s1.work.h) s1))

/-- `turnaround()`, drive to sample: the line is released, then TRN turnaround cycles (R121). The level of the released
pad is unspecified (93 U3). W.SHIFT as in `writeBits`: log entry 27. -/
def turnToSample (s : State) : State :=
  let s1 := latch s.work.shift s.cfg.trn s
  let s2 := (s1.setPin { s1.pin with dioOE := false, dioO := freeBit s1.free }).setFree (s1.free + 1)
  endPrimitive (emit (List.replicate s2.cfg.trn (.turn s2.work.h)) s2)

/-- `turnaround()`, sample to drive: TRN turnaround cycles, then the line is driven at level 0 (R121). W.SHIFT as in
`writeBits`: log entry 27. -/
def turnToDrive (s : State) : State :=
  let s1 := latch s.work.shift s.cfg.trn s
  let s2 := emit (List.replicate s1.cfg.trn (.turn s1.work.h)) s1
  endPrimitive (s2.setPin { s2.pin with dioOE := true, dioO := false })

/-- `turnaround()` (R121). -/
def turnaround (s : State) : State :=
  if s.pin.dioOE then turnToSample s else turnToDrive s

/-- `shift_bits(bits, count)`: one X event per bit, out on the data line and in from PIN.AUX_I; the result is left in
W.SHIFT (R122). -/
def shiftBits {n : Nat} (bits : BitVec n) (count : Nat) (s : State) : State :=
  let outs := bitsLsbFirst bits count
  let ins := targetBits count s
  let s1 := latch (BitVec.ofNat 35 (natOfBits ins)) count s
  endPrimitive
    (consume count
      (setDio (outs.getLastD s1.pin.dioO) (emit (List.zipWith (fun o i => .scan o i s1.work.h) outs ins) s1)))

end Sys2Proof.Machine
end

