-- ==== Sys2Proof/Machine/Codec.lean ====
section
/-!
DEFINITION. The Transaction Codec and the acknowledgement parser (41_transaction_codec.md), and `RunOp` with its bounded
WAIT retry (43_transfer_commands.md R212). A transaction is composed of the wire fields of the opcode table (30_encoding.md
R97 to R101) and the turnarounds between them.
-/

namespace Sys2Proof.Machine

open Sys2Proof

/-- The lines are driven, clock low, and a discipline is selected: the entry condition of every transaction (R142, R160),
and what 40 R126 asks of every primitive. -/
def codecReady (s : State) : Bool :=
  s.ses.disc != .none && s.pin.clkOE && !s.pin.clkO && s.pin.dioOE && (s.ses.disc != .scan || s.cfg.hasAux)

/-- W.SEL <- sel, W.WDATA <- wdata (R142, R160). -/
def loadOperation (sel : Sel) (wdata : Word) (s : State) : State :=
  s.setWork { s.work with sel := sel, wdata := wdata }

/-! The fields of a SWD-style transaction. -/

/-- The request header: 8 D events (R141, R142, 30 R97). -/
def swdRequest (sel : Sel) (s : State) : State :=
  writeBits (header sel) 8 s

/-- The acknowledgement: W.ACK <- read_bits(3), and ACKP's class of it in W.ST (R142, R143). -/
def swdAcknowledge (s : State) : State :=
  let s1 := readBits 3 s
  let ack : BitVec 3 := s1.work.shift.setWidth 3
  s1.setWork { s1.work with ack := ack, st := (ackClass ack).code }

/-- The data phase of a read: 33 S events, W.RDATA and W.PAR, and the parity check in W.ST (R144, R149). -/
def swdReadData (s : State) : State :=
  let s1 := readBits 33 s
  let rdata : Word := s1.work.shift.setWidth 32
  let par := s1.work.shift.getLsbD 32
  s1.setWork { s1.work with rdata := rdata, par := par, st := (readStatus rdata par).code }

/-- The data phase of a write: 33 D events, value then computed parity; PIN.DIO_O <- 0 at the end (R145, R157). -/
def swdWriteData (wdata : Word) (s : State) : State :=
  setDio false (writeBits (dataWord wdata (parity32 wdata)) 33 s)

/-- The opening of every SWD-style transaction: header, turnaround, acknowledgement (R142). -/
def swdOpening (sel : Sel) (wdata : Word) (s : State) : State :=
  swdAcknowledge (turnaround (swdRequest sel (loadOperation sel wdata s)))

/-- `TransactSWD(sel, wdata)` (R142 to R149). The value of an OK read is in W.RDATA. -/
def transactSwd (sel : Sel) (wdata : Word) (s : State) : Status × State :=
  let s1 := swdOpening sel wdata s
  let st := ackClass s1.work.ack
  if st = .ok then
    if selIsRead sel then
      let s2 := turnaround (swdReadData s1)
      (readStatus s2.work.rdata s2.work.par, s2)
    else (.ok, swdWriteData wdata (turnaround s1))
  else (st, turnaround s1)

/-! The fields of a scan-style transaction. -/

/-- The S.IR_STATE that names a port kind's chain (R160). -/
def irOf : PortKind → IrState
  | .dp => .dp
  | .ap => .ap

/-- The chain-select field: SCAN_IR_LEN X events, incoming bits discarded, then S.IR_STATE (R161, R162). -/
def scanSelect (port : PortKind) (s : State) : State :=
  setIrState (irOf port) (shiftBits (scanIrCode s.cfg port) s.cfg.scanIrLen s)

/-- The data-register word: 35 X events, PIN.DIO_O <- 0, and for a read W.RDATA <- incoming bits 34:3 (R163, R164). -/
def scanData (word : BitVec 35) (rnw : Bool) (s : State) : State :=
  let s1 := setDio false (shiftBits word 35 s)
  if rnw then s1.setWork { s1.work with rdata := s1.work.shift.extractLsb' 3 32 } else s1

/-- `TransactScan(sel, wdata)`: the status is always OK (R160, R165). It makes SCAN_IR_LEN + 35 or 35 cycles (R166), which
60 R265's bound of 44 + 2 * TRN does not cover for a long chain-select field: R160 and R166 are followed, DEDUCED, log
entry 14. -/
def transactScan (sel : Sel) (wdata : Word) (s : State) : Status × State :=
  let s0 := loadOperation sel wdata s
  let s1 := if s0.ses.irState = irOf (selPort sel) then s0 else scanSelect (selPort sel) s0
  (.ok, scanData (scanWord sel wdata) (selIsRead sel) s1)

/-- `Transact(sel, wdata)`: one attempt, in the selected discipline (R140, R151, R155). Every caller has checked
`codecReady`, so that no discipline is the unreachable case of R155. -/
def transact (sel : Sel) (wdata : Word) (s : State) : Status × State :=
  match s.ses.disc with
  | .none => (.noAck, s)
  | .swd => transactSwd sel wdata s
  | .scan => transactScan sel wdata s

/-- W.RETRY <- W.RETRY + 1 (43 R212). -/
def bumpRetry (s : State) : State :=
  s.setWork { s.work with retry := s.work.retry + 1#8 }

/-- The retry loop of `RunOp` with `left` retries still allowed: W.RETRY + left = WAIT_RETRY_MAX (43 R212). -/
def retryLoop (sel : Sel) (wdata : Word) : Nat → State → Status × State
  | 0, s =>
    let r := transact sel wdata s
    if r.1 = .wait then (if r.2.cfg.waitRetryMax = 0 then .wait else .timeout, r.2) else r
  | left + 1, s =>
    let r := transact sel wdata s
    if r.1 = .wait then retryLoop sel wdata left (bumpRetry r.2) else r

/-- `RunOp(sel, wdata)`: W.RETRY <- 0, the loop, and the final status in W.ST (43 R212, 10 R24). The value of an OK read
is in W.RDATA. -/
def runOp (sel : Sel) (wdata : Word) (s : State) : Status × State :=
  let r := retryLoop sel wdata s.cfg.waitRetryMax (s.setWork { s.work with retry := 0#8 })
  (r.1, r.2.setWork { r.2.work with st := r.1.code })

end Sys2Proof.Machine
end

