-- ==== Sys2Proof/Machine/Transfer.lean ====
section
/-!
DEFINITION. The meanings of the transfer commands XFER, QPUSH and QEXEC (43_transfer_commands.md).
-/

namespace Sys2Proof.Machine

open Sys2Proof

/-- A status and, exactly for a read that ended OK, the value, little-endian: the tail of the XFER response (R214), and what a
record of the QEXEC response holds (R229). -/
def resultBytes (sel : Sel) (st : Status) (value : Word) : List Byte :=
  if selIsRead sel ∧ st = .ok then st.code :: le32 value else [st.code]

/-- XFER of either form: one Operation inline (R214, R215). -/
def xfer (sel : Sel) (value : Word) (s : State) : Result :=
  let s0 := setOp opXfer s
  if s0.ses.dstate ≠ .connected then raise .badState s0
  else if codecReady s0 = false then .fault .codecPrecondition
  else
    let r := runOp sel value s0
    .next (respond (opXfer :: resultBytes sel r.1 r.2.work.rdata) (countError r.1 r.2))

/-- XFER, read form: `RunOp(sel with RnW = 1, 0)` (00_scope.md R14, R214). -/
def execXferR (loc : Loc) (s : State) : Result :=
  xfer (selOf loc true) 0#32 s

/-- XFER, write form (R214). -/
def execXferW (loc : Loc) (value : Word) (s : State) : Result :=
  xfer (selOf loc false) value s

/-- QPUSH of either form: append one Operation; nothing reaches the wire (R217, R218). -/
def qpush (sel : Sel) (wdata : Option Word) (s : State) : Result :=
  let s0 := setOp opQpush s
  if s0.ses.dstate = .idle then raise .badState s0
  else
    match enqueue sel wdata s0 with
    | none => .next (respond [opQpush, Status.queueFull.code, 0x00#8] (countOverrun s0))
    | some s1 =>
      .next (respond [opQpush, Status.ok.code, BitVec.ofNat 8 (s1.cfg.qcap - s1.queue.count)] (setDState .queuing s1))

/-- QPUSH, read form (R217). -/
def execQpushR (loc : Loc) (s : State) : Result :=
  qpush (selOf loc true) none s

/-- QPUSH, write form (R217). -/
def execQpushW (loc : Loc) (value : Word) (s : State) : Result :=
  qpush (selOf loc false) (some value) s

/-! The drain loop (R222). -/

/-- The working registers and RSPBUF at the start of QEXEC, and S.DSTATE <- Executing (R222, 10 R36). -/
def startBatch (s : State) : State :=
  (setDState .executing
      (s.setWork
        { s.work with
          total := BitVec.ofNat 8 s.queue.count
          executed := 0#8
          failidx := 0xFF#8
          bstatus := Status.ok.code
          stopped := false
          idx := 0#8 })).setRsp
    []

/-- The stop rule after an executed Operation: W.STOPPED, W.FAILIDX, W.BSTATUS (R224). -/
def stopRule (st : Status) (s : State) : State :=
  if s.ses.aoe ∧ st.stops then
    s.setWork { s.work with stopped := true, failidx := s.work.idx, bstatus := st.code }
  else s

/-- Append a record to RSPBUF and go on to the next index (R222, R229). -/
def appendRecord (bytes : List Byte) (s : State) : State :=
  (s.setRsp (s.rspBuf ++ bytes)).setWork { s.work with idx := s.work.idx + 1#8 }

/-- The record of an Operation in the QEXEC response, read from its result slot: RVALUE goes with STATUS exactly for a read
that ended OK (R226, R229). -/
def recordOf (e : Op) : List Byte :=
  if selIsRead e.sel ∧ e.status = Status.ok.code then e.status :: le32 e.rvalue else [e.status]

/-- The value component of `RunOp`: the sampled value of a read that ended OK, else unspecified (R212, 93 U5). -/
def opValue (sel : Sel) (st : Status) (s : State) : Word :=
  if selIsRead sel ∧ st = .ok then s.work.rdata else Config.free 32 s.free

/-- Run a dequeued Operation, fill its result slot, count it, apply the stop rule, record it (R222). -/
def runEntry (e : Op) (s : State) : State :=
  let r := runOp e.sel e.wdata s
  let e1 := fillResult r.1 (opValue e.sel r.1 r.2) e
  let s1 := (r.2.setFree (r.2.free + 1)).setWork { r.2.work with executed := r.2.work.executed + 1#8 }
  appendRecord (recordOf e1) (stopRule r.1 (countError r.1 s1))

/-- One round of the drain: after a stop the entry is marked NOT_EXECUTED and recorded, else it is run (R222, R225). The
dequeued Operation is in hand until its record is in the response; its slot is free (R30, R31). -/
def drainOne (s : State) : State :=
  if s.work.stopped then appendRecord (recordOf (markNotExecuted (oldest s))) (dropOldest s)
  else runEntry (oldest s) (dropOldest s)

/-- The rounds of the drain, in queue order (R222, R223). -/
def drain : Nat → State → State
  | 0, s => s
  | n + 1, s => drain n (drainOne s)

/-- The header bytes of the QEXEC response (R226). -/
def batchHeader (w : Work) : List Byte :=
  [opQexec, w.bstatus, w.total, w.executed, w.failidx]

/-- QEXEC (R221, R222). -/
def execQexec (s : State) : Result :=
  let s0 := setOp opQexec s
  if s0.ses.dstate = .idle then raise .badState s0
  else if s0.queue.count ≠ 0 ∧ codecReady s0 = false then .fault .codecPrecondition
  else
    let s1 := setDState .connected (drain s0.queue.count (startBatch s0))
    .next (respond (batchHeader s1.work ++ s1.rspBuf) s1)

end Sys2Proof.Machine
end

