-- ==== Sys2Proof/Machine/WireFields.lean ====
section
/-!
DEFINITION. The meanings of the five wire rows of the opcode table (30_encoding.md R97 to R101) as steps of the codec's
own, finer level (00_scope.md R9): the field is put on the wire, or taken off it, exactly as the transactions of
41_transaction_codec.md do. No packet of the host reaches them. Where the line points the wrong way, the turnaround that
40_serial_driver.md R121 and R127 put at every change of direction comes first. DEDUCED, log entry 8.
What a field leaves in the working registers beyond the lines of the transaction is log entry 27: W.SHIFT is a free value.
-/

namespace Sys2Proof.Machine

open Sys2Proof

/-- The SWD-style discipline is selected and the clock is driven, low (40 R126). -/
def swdReady (s : State) : Bool :=
  s.ses.disc == .swd && s.pin.clkOE && !s.pin.clkO

/-- The scan-style discipline is selected and both lines are driven, the clock low; the data-in pin exists (40 R126). -/
def scanReady (s : State) : Bool :=
  s.ses.disc == .scan && s.pin.clkOE && !s.pin.clkO && s.pin.dioOE && s.cfg.hasAux

/-- The line in the drive direction: a turnaround first if DPSE is not driving it (40 R127). -/
def toDrive (s : State) : State :=
  if s.pin.dioOE then s else turnaround s

/-- The line in the sample direction: a turnaround first if DPSE is driving it (40 R127). -/
def toSample (s : State) : State :=
  if s.pin.dioOE then turnaround s else s

/-- SWD.REQ: W.SEL <- sel, 8 D events (30 R97, 41 R142). -/
def execSwdReq (sel : Sel) (s : State) : Result :=
  if swdReady s = false then .fault .codecPrecondition
  else .next (dropShift (swdRequest sel (toDrive (s.setWork { s.work with sel := sel }))))

/-- SWD.ACK: 3 S events whose levels are the word's bits; W.ACK and the class of it in W.ST (30 R98, 41 R143). -/
def execSwdAck (ack : BitVec 3) (s : State) : Result :=
  if swdReady s = false then .fault .codecPrecondition
  else .next (dropShift (swdAcknowledge (feed (bitsLsbFirst ack 3) (toSample s))))

/-- SWD.DATA: by the direction of the request in flight, W.SEL[1]. A read samples the word's 33 bits and checks the
parity; a write drives the 32 data bits and the parity bit DPSE computes (30 R99, 41 R144, R145). A transaction has this
phase only after an OK acknowledgement (R146 to R148); of a field handed over alone the spec says nothing, and it runs
whatever W.ACK holds. DESIGN CHOICE, log entry 24: unsafe. -/
def execSwdData (data : Word) (par : Bool) (s : State) : Result :=
  if swdReady s = false then .fault .codecPrecondition
  else if selIsRead s.work.sel then
    .next (dropShift (swdReadData (feed (bitsLsbFirst (dataWord data par) 33) (toSample s))))
  else .next (dropShift (swdWriteData data (toDrive s)))

/-- SCAN.IR: the chain-select field of a port kind, and S.IR_STATE (30 R100, 41 R161, R162). A transaction emits the field
only when S.IR_STATE does not name the port yet (R161); of a field handed over alone the spec says nothing, and it is
shifted whatever S.IR_STATE holds, also when it names the port already. DESIGN CHOICE, log entry 25: unsafe. -/
def execScanIr (port : PortKind) (s : State) : Result :=
  if scanReady s = false then .fault .codecPrecondition
  else .next (dropShift (scanSelect port s))

/-- SCAN.DR: the 35-bit word out, 35 bits in; a read's value to W.RDATA (30 R101, 41 R163, R164). In a transaction the word
follows a chain that S.IR_STATE names (R160); of a word handed over alone the spec says nothing, and it is shifted
whatever S.IR_STATE holds, also IR_NONE. DESIGN CHOICE, log entry 26: unsafe. -/
def execScanDr (rnw a2 a3 : Bool) (data : Word) (s : State) : Result :=
  if scanReady s = false then .fault .codecPrecondition
  else .next (dropShift (scanData (scanWordOf rnw a2 a3 data) rnw s))

end Sys2Proof.Machine
end

