-- ==== Sys2Proof/Machine/Dispatch.lean ====
section
/-!
DEFINITION. The dispatch: one arm per constructor of Instr, each one direct call of its meaning.
-/

namespace Sys2Proof.Machine

open Sys2Proof

def exec (i : Instr) (s : State) : Host.Outcome State Fault Refusal :=
  match i with
  -- session commands
  | .info => Sys2Proof.Machine.execInfo s
  | .connect disc flags => Sys2Proof.Machine.execConnect disc flags s
  | .clock freq => Sys2Proof.Machine.execClock freq s
  | .reset level duration => Sys2Proof.Machine.execReset level duration s
  -- transfer commands
  | .xferR loc => Sys2Proof.Machine.execXferR loc s
  | .xferW loc value => Sys2Proof.Machine.execXferW loc value s
  | .qpushR loc => Sys2Proof.Machine.execQpushR loc s
  | .qpushW loc value => Sys2Proof.Machine.execQpushW loc value s
  | .qexec => Sys2Proof.Machine.execQexec s
  | .abort => Sys2Proof.Machine.execAbort s
  -- wire fields
  | .swdReq sel => Sys2Proof.Machine.execSwdReq sel s
  | .swdAck ack => Sys2Proof.Machine.execSwdAck ack s
  | .swdData data par => Sys2Proof.Machine.execSwdData data par s
  | .scanIr port => Sys2Proof.Machine.execScanIr port s
  | .scanDr rnw a2 a3 data => Sys2Proof.Machine.execScanDr rnw a2 a3 data s

end Sys2Proof.Machine
end

