-- ==== Sys2Proof/Machine/Fetch.lean ====
section
/-!
DEFINITION. What a step does around `exec`: the malformed packet (30_encoding.md R84, R90), the abandoned command (70 R280),
the wire field handed to the codec, and the placing of an instruction where the next step fetches it.
-/

namespace Sys2Proof.Machine

open Sys2Proof

/-- A malformed packet: `raise BAD_COMMAND` with the packet's opcode byte, 0x00 for the empty one (R84, R88, R89). -/
def malformed (e : DecodeError) (s : State) : Result :=
  raise .badCommand (setOp e.opcode s)

/-- The command of a packet, run to completion: decoded and executed, or answered as malformed (R84). -/
def runPacket (p : Packet) (s : State) : Result :=
  match decodePacket p with
  | .ok i => exec i s
  | .error e => malformed e s

/-- The command with the hardware reset that falls inside it, if one does (70 R280, 93 U17). -/
def withResetCut (s : State) (r : Result) : Result :=
  match s.host.rstCut with
  | none => r
  | some cut =>
    match r with
    | .next t => .next (abandon cut s t)
    | .fault f => .fault f
    | .refused x => .refused x

/-- The field handed to the codec, as a step of its own (00_scope.md R9, log entry 8). -/
def runField (ww : WireWord) (s : State) : Result :=
  match decodeWire s.cfg ww with
  | .ok i => exec i s
  | .error _ => .refused .badWireWord

/-- The codec's entry emptied. -/
def takeField (s : State) : State :=
  s.setWire { s.wire with field := none }

/-- A response is on offer: it goes over when the host side is ready, and is held otherwise (20_memory.md R75, 70 R296). -/
def offerResponse (s : State) : State :=
  if s.host.rspReady then handOver s else s

/-- The discipline a wire field belongs to. -/
def fieldDisc : WireField → Disc
  | .req => .swd
  | .ack => .swd
  | .data => .swd
  | .ir => .scan
  | .dr => .scan

/-- The lines as the codec finds them when it reaches the field: its discipline selected and the lines driven. A state
that already is so stays as it is. -/
def readyFor (f : WireField) (s : State) : State :=
  let ready := match fieldDisc f with
    | .scan => scanReady s
    | .swd => swdReady s
    | .none => false
  if ready then s else selectDiscipline (fieldDisc f) s

/-- No hardware reset, and a code on offer where the next step fetches: a packet first on the host channel with no
response before it, a wire word at the codec. -/
def placeCode (code : Code) (s : State) : State :=
  match code with
  | .packet p =>
    ((s.setHost { s.host with rstN := true, rstCut := none, cmdIn := p :: s.host.cmdIn }).setRsp []).setWire
      { s.wire with field := none }
  | .wire ww =>
    let s1 := s.setHost { s.host with rstN := true, rstCut := none }
    readyFor ww.field (s1.setWire { s1.wire with field := some ww })

end Sys2Proof.Machine
end

