-- ==== Sys2Proof/Machine/Step.lean ====
section
/-!
DEFINITION. One step of DPSE (00_scope.md R9): one whole command, from the acceptance of its packet to its finished
response, or the hand-over of that response, or one wire field handed to the codec, or a wait.
-/

namespace Sys2Proof.Machine

open Sys2Proof

/-- The step. In hardware reset: the reset state (70 R280). Else a field at the codec, if there is one; else a response
on offer; else the next packet; else DPSE waits and holds its state (70 R281, 60 R271). -/
def step (s : State) : Host.Outcome State Fault Refusal :=
  if s.host.rstN = false then .next (hwReset s)
  else
    match s.wire.field with
    | some ww => runField ww (takeField s)
    | none =>
      if s.rspBuf = [] then
        match s.host.cmdIn with
        | [] => .next s
        | p :: rest => withResetCut (accept p rest s) (runPacket p (accept p rest s))
      else .next (offerResponse s)

/-- `s` with the instruction whose bits are `w`, numbered as spec/opcode_table.json numbers them, where the next step
fetches it. -/
def State.withFetchWord (s : State) (nbits w : Nat) : State :=
  placeCode (tableCode nbits w) s

end Sys2Proof.Machine
end

