-- ==== Sys2Proof/WellFormed.lean ====
section
/-!
DEFINITION. Which instruction terms are well-formed: the field legality of 30_encoding.md R84 step 4, R91, R95, R96 that
does not depend on the configuration, and the zero data bits of a SCAN.DR read word (R101). CLOCK's bound F_MIN (R94) and
CONNECT's HAS_AUX (R96) depend on the configuration and are checked by the meanings alone.
-/

namespace Sys2Proof

/-- CONNECT's DISC is 1 or 2 and the reserved bits 7:1 of FLAGS are 0 (R91, R96). -/
def wfConnect (disc flags : Byte) : Bool :=
  (disc == 1#8 || disc == 2#8) && flags.extractLsb' 1 7 == 0#7

/-- RESET's LEVEL is 0 or 1 (R95). -/
def wfReset (level : Byte) : Bool :=
  level == 0#8 || level == 1#8

/-- A SCAN.DR word of a read has 32 zero data bits (R101). -/
def wfScanDr (rnw : Bool) (data : Word) : Bool :=
  !rnw || data == 0#32

/-- Well-formedness of an instruction. -/
def Instr.wellFormed : Instr → Bool
  | .info => true
  | .connect disc flags => wfConnect disc flags
  | .clock _ => true
  | .reset level _ => wfReset level
  | .xferR _ => true
  | .xferW _ _ => true
  | .qpushR _ => true
  | .qpushW _ _ => true
  | .qexec => true
  | .abort => true
  | .swdReq _ => true
  | .swdAck _ => true
  | .swdData _ _ => true
  | .scanIr _ => true
  | .scanDr rnw _ _ data => wfScanDr rnw data

end Sys2Proof
end

