-- ==== Sys2Proof/Safety.lean ====
section
/-!
DEFINITION. What counts as a good state and a safe run, in the terms the statements use: the invariant between commands
(10_state.md R34, R41), what a step leaves alone, and the ownership of the data line (40_serial_driver.md R127, 70 R298).
-/

namespace Sys2Proof

open Sys2Proof.Machine

/-- The invariant of DPSE between commands. -/
structure Inv (s : State) : Prop where
  /-- The configuration is legal (00_scope.md R10). -/
  legal : Legal s.cfg
  /-- S.HALF is in range (R21). -/
  half_ge : s.cfg.halfMin ≤ s.ses.half
  half_le : s.ses.half ≤ halfMax s.cfg
  /-- The queue has its QCAP slots, and QHEAD and QCOUNT are in range (R31, R32). -/
  slots_length : s.queue.slots.length = s.cfg.qcap
  head_lt : s.queue.head < s.cfg.qcap
  count_le : s.queue.count ≤ s.cfg.qcap
  /-- S.DSTATE is a function of S.DISC and QCOUNT (R34); Executing never holds. -/
  idle_iff : s.ses.dstate = .idle ↔ s.ses.disc = .none
  connected_iff : s.ses.dstate = .connected ↔ s.ses.disc ≠ .none ∧ s.queue.count = 0
  queuing_iff : s.ses.dstate = .queuing ↔ s.ses.disc ≠ .none ∧ 0 < s.queue.count
  /-- In Idle the queue is empty: Queuing holds exactly when QCOUNT > 0 (92_eei_decisions.md D47). -/
  idle_empty : s.ses.disc = .none → s.queue.count = 0
  /-- The scan discipline is selected only where its pin exists (R183). -/
  scan_aux : s.ses.disc = .scan → s.cfg.hasAux = true
  /-- The pins by discipline (R41). -/
  released : s.ses.disc = .none → s.pin.clkOE = false ∧ s.pin.dioOE = false
  driven : s.ses.disc ≠ .none → s.pin = { clkO := false, clkOE := true, dioO := false, dioOE := true }
  /-- A response on offer has 2 to RSP_MAX bytes (R61, R85). -/
  rsp_ge : s.rspBuf = [] ∨ 2 ≤ s.rspBuf.length
  rsp_le : s.rspBuf.length ≤ s.cfg.rspMax
  /-- The HALF_BITS-bit registers W.H and PHASE_CNT are in range (R24, R44). -/
  latched_le : s.work.h ≤ halfMax s.cfg
  phase_le : s.timers.phaseCnt ≤ halfMax s.cfg
  /-- No wire field has been handed to the codec from outside (log entry 8). -/
  field_none : s.wire.field = none

/-- Nothing changes but the response and the unspecified values: what INFO and every refusal leave (R88, R181). -/
structure Quiet (s t : State) : Prop where
  cfg : t.cfg = s.cfg
  ses : t.ses = s.ses
  queue : t.queue = s.queue
  pin : t.pin = s.pin
  host : t.host = s.host
  wire : t.wire = s.wire

/-- The machine does not stop at s: its step is a next state. -/
def Goes (s : State) : Prop :=
  ∃ t, step s = .next t

/-- Which status `RunOp` can return, by configuration and discipline (R211). -/
def runOpStatus (c : Config) (d : Disc) (isRead : Bool) : Status → Prop
  | .ok => True
  | .wait => d = .swd ∧ c.waitRetryMax = 0
  | .fault => d = .swd
  | .parityErr => d = .swd ∧ isRead = true
  | .noAck => d = .swd
  | .timeout => d = .swd ∧ c.waitRetryMax ≠ 0
  | .queueFull => False
  | .notExecuted => False
  | .badCommand => False
  | .badState => False

/-! Pieces of a wire trace (R113, R153, R166). -/

/-- The lines of a selected discipline between transactions: both driven low (10_state.md R41, 41 R157, R166). -/
def drivenLow : Pins where
  clkO := false
  clkOE := true
  dioO := false
  dioOE := true

/-- D events for a list of levels. -/
def drives (h : Nat) (levels : List Bool) : List WireEvent :=
  levels.map fun b => .drive b h

/-- S events for a list of levels. -/
def samples (h : Nat) (levels : List Bool) : List WireEvent :=
  levels.map fun b => .sample b h

/-- One turnaround: TRN T events. -/
def turns (c : Config) (h : Nat) : List WireEvent :=
  List.replicate c.trn (.turn h)

/-- X events for outgoing and incoming levels. -/
def scans (h : Nat) (outs ins : List Bool) : List WireEvent :=
  List.zipWith (fun o i => .scan o i h) outs ins

/-- The opening of a SWD-style transaction: header, turnaround, acknowledgement samples (R153). -/
def openingTrace (c : Config) (h : Nat) (sel : Sel) (ack : List Bool) : List WireEvent :=
  drives h (bitsLsbFirst (header sel) 8) ++ turns c h ++ samples h ack

/-- A transaction without a data phase: WAIT, FAULT, NO_ACK (R146 to R148, R153). -/
def refusedTrace (c : Config) (h : Nat) (sel : Sel) (ack : List Bool) : List WireEvent :=
  openingTrace c h sel ack ++ turns c h

/-- The three levels of an OK, a WAIT and a FAULT acknowledgement, in wire order (30_encoding.md R98). -/
def ackOk : List Bool := [true, false, false]
def ackWait : List Bool := [false, true, false]
def ackFault : List Bool := [false, false, true]

/-- An OK read with its 33 samples (R144, R153). -/
def readTrace (c : Config) (h : Nat) (sel : Sel) (data : List Bool) (par : Bool) : List WireEvent :=
  openingTrace c h sel ackOk ++ samples h (data ++ [par]) ++ turns c h

/-- An OK write (R145, R153). -/
def writeTrace (c : Config) (h : Nat) (sel : Sel) (v : Word) : List WireEvent :=
  openingTrace c h sel ackOk ++ turns c h ++ drives h (bitsLsbFirst v 32 ++ [parity32 v])

/-- n transactions acknowledged WAIT, one after the other: their answers, and their trace (43 R212). -/
def waitAnswers (n : Nat) : List Bool :=
  (List.replicate n ackWait).flatten
def waitTrace (c : Config) (h : Nat) (sel : Sel) (n : Nat) : List WireEvent :=
  (List.replicate n (refusedTrace c h sel ackWait)).flatten

/-- The levels DPSE drove in D events, in order. -/
def drivenLevels (evs : List WireEvent) : List Bool :=
  evs.filterMap fun e =>
    match e with
    | .drive b _ => some b
    | .sample _ _ => none
    | .turn _ => none
    | .scan _ _ _ => none
    | .resetLine _ => none
    | .hold _ => none

/-- The last transaction of a SWD-style Operation by its final status (R143 to R149): an OK read samples the value `v` and
its parity, an OK write drives `wdata`, PARITY_ERR samples some value with the wrong parity bit, and WAIT, FAULT and
NO_ACK have their acknowledgement and no data phase; TIMEOUT ends on a WAIT (43 R212). -/
def lastOnWire (c : Config) (h : Nat) (sel : Sel) (wdata v : Word) (evs : List WireEvent) : Status → Prop
  | .ok =>
    evs =
      if selIsRead sel then readTrace c h sel (bitsLsbFirst v 32) (parity32 v) else writeTrace c h sel wdata
  | .wait => evs = refusedTrace c h sel ackWait
  | .fault => evs = refusedTrace c h sel ackFault
  | .parityErr => selIsRead sel = true ∧ ∃ w, evs = readTrace c h sel (bitsLsbFirst w 32) (!parity32 w)
  | .timeout => evs = refusedTrace c h sel ackWait
  | .noAck => ∃ ack, ackClass ack = .noAck ∧ evs = refusedTrace c h sel (bitsLsbFirst ack 3)
  | .queueFull => False
  | .notExecuted => False
  | .badCommand => False
  | .badState => False

/-- The transaction of a scan-style Operation: the chain-select field exactly when `ir` (S.IR_STATE before it) does not
name its port, then the 35-bit word, whose incoming bits 3 to 34 are the value of a read (R161 to R164). -/
def scanOnWire (c : Config) (h : Nat) (ir : IrState) (sel : Sel) (wdata v : Word) (evs : List WireEvent) : Prop :=
  ∃ lead low w, lead.length = c.scanIrLen ∧ low.length = 3 ∧
    evs =
      (if ir = irOf (selPort sel) then [] else scans h (bitsLsbFirst (scanIrCode c (selPort sel)) c.scanIrLen) lead) ++
        scans h (bitsLsbFirst (scanWord sel wdata) 35) (low ++ bitsLsbFirst w 32) ∧
    (selIsRead sel = true → w = v)

/-- The whole wire activity of one executed Operation that ended with status `st` and value `v`, when `retries` WAIT
retries are allowed: some WAIT transactions, all of them used up where it ends on a WAIT, then the last transaction
(43 R212); scan-style, one transaction with status OK (R165). -/
def opOnWire (c : Config) (h : Nat) (ir : IrState) (sel : Sel) (wdata : Word) (retries : Nat) (st : Status) (v : Word)
    (evs : List WireEvent) : Disc → Prop
  | .none => False
  | .swd =>
    ∃ n last, n ≤ retries ∧ (st = .wait ∨ st = .timeout → n = retries) ∧ evs = waitTrace c h sel n ++ last ∧
      lastOnWire c h sel wdata v last st
  | .scan => st = .ok ∧ scanOnWire c h ir sel wdata v evs

/-- S.IR_STATE after a list of scan-style Operations: it names the port of the last one (R162). -/
def irAfter (ir : IrState) (es : List Op) : IrState :=
  match es.getLast? with
  | none => ir
  | some e => irOf (selPort e.sel)

/-! The outcome of a batch, from the final statuses of its Operations (43 R222 to R229). -/

/-- The index of the Operation that stopped the batch: with S.AOE = 1 the first with a stopping status (R224). -/
def stopIndex (aoe : Bool) (sts : List Status) : Option Nat :=
  if aoe then sts.findIdx? Status.stops else none

/-- The five header bytes of the QEXEC response (R226). -/
def batchHeaderOf (aoe : Bool) (sts : List Status) : List Byte :=
  match stopIndex aoe sts with
  | none => [opQexec, Status.ok.code, BitVec.ofNat 8 sts.length, BitVec.ofNat 8 sts.length, 0xFF#8]
  | some k =>
    [opQexec, (sts.getD k .ok).code, BitVec.ofNat 8 sts.length, BitVec.ofNat 8 (k + 1), BitVec.ofNat 8 k]

/-- The records of the QEXEC response, one per entry in queue order (R226, R229). -/
def batchRecords (es : List Op) (rs : List (Status × Word)) : List Byte :=
  (List.zipWith (fun e r => resultBytes e.sel r.1 r.2) es rs).flatten

/-- The queue's numbers are in range (10_state.md R31, R32), QCAP within R10. -/
structure QueueInRange (s : State) : Prop where
  slots_length : s.queue.slots.length = s.cfg.qcap
  head_lt : s.queue.head < s.cfg.qcap
  count_le : s.queue.count ≤ s.cfg.qcap
  qcap_le : s.cfg.qcap ≤ 255

/-- A well-formed command was refused or malformed: BAD_COMMAND or BAD_STATE in byte 1 (60_exceptions.md R250, R260). -/
def refusedResponse (rsp : Packet) : Bool :=
  rsp.getD 1 0#8 == Status.badCommand.code || rsp.getD 1 0#8 == Status.badState.code

/-- The state after an accepted command, by the transition table (60_exceptions.md R262). -/
def stateAfter (before : DState) : Instr → DState
  | .info => before
  | .connect _ _ => .connected
  | .clock _ => before
  | .reset _ _ => before
  | .xferR _ => .connected
  | .xferW _ _ => .connected
  | .qpushR _ => .queuing
  | .qpushW _ _ => .queuing
  | .qexec => .connected
  | .abort => .idle
  | .swdReq _ => before
  | .swdAck _ => before
  | .swdData _ _ => before
  | .scanIr _ => before
  | .scanDr _ _ _ _ => before

/-- Whether the transition table refuses a command in a state (60_exceptions.md R262). -/
def tableRefuses (before : DState) : Instr → Bool
  | .info => false
  | .connect _ _ => before == .queuing
  | .clock _ => false
  | .reset _ _ => false
  | .xferR _ => before != .connected
  | .xferW _ _ => before != .connected
  | .qpushR _ => before == .idle
  | .qpushW _ _ => before == .idle
  | .qexec => before == .idle
  | .abort => false
  | .swdReq _ => false
  | .swdAck _ => false
  | .swdData _ _ => false
  | .scanIr _ => false
  | .scanDr _ _ _ _ => false

/-- The field legality of a command under a configuration (30_encoding.md R84 step 4, R94 to R96). -/
def legalFields (c : Config) : Instr → Bool
  | .info => true
  | .connect disc flags => wfConnect disc flags && (disc != 2#8 || c.hasAux)
  | .clock freq => decide (fMin c ≤ freq.toNat)
  | .reset level _ => wfReset level
  | .xferR _ => true
  | .xferW _ _ => true
  | .qpushR _ => true
  | .qpushW _ _ => true
  | .qexec => true
  | .abort => true
  | .swdReq _ => true
  | .swdAck _ => true
  | .swdData _ _ => true
  | .scanIr _ => true
  | .scanDr _ _ _ _ => true

/-! Who owns the data line (R127). -/

/-- What an event does with the data line; RL and HOLD do nothing with it. -/
inductive LineUse where
  | driven
  | sampled
  | turning
  deriving DecidableEq, Repr

/-- D and X events drive the data line, S events sample it, T events leave it alone (R113, R127). -/
def lineUse : WireEvent → Option LineUse
  | .drive _ _ => some .driven
  | .sample _ _ => some .sampled
  | .turn _ => some .turning
  | .scan _ _ _ => some .driven
  | .resetLine _ => none
  | .hold _ => none

/-- Where the line stands: never used, last driven, last sampled, k turnaround cycles after driving or after sampling. -/
inductive LineAt where
  | start
  | driving
  | sampling
  | toSample (k : Nat)
  | toDrive (k : Nat)
  deriving DecidableEq, Repr

/-- The next place of the line, none where R127 is broken: a D beside an S, or a group of turnaround cycles that is not
exactly TRN long or does not stand between D and S. -/
def lineNext (trn : Nat) : LineAt → LineUse → Option LineAt
  | .start, .driven => some .driving
  | .start, .sampled => none
  | .start, .turning => none
  | .driving, .driven => some .driving
  | .driving, .sampled => none
  | .driving, .turning => some (.toSample 1)
  | .sampling, .driven => none
  | .sampling, .sampled => some .sampling
  | .sampling, .turning => some (.toDrive 1)
  | .toSample _, .driven => none
  | .toSample k, .sampled => if k = trn then some .sampling else none
  | .toSample k, .turning => if k < trn then some (.toSample (k + 1)) else none
  | .toDrive k, .driven => if k = trn then some .driving else none
  | .toDrive _, .sampled => none
  | .toDrive k, .turning => if k < trn then some (.toDrive (k + 1)) else none

/-- The place of the line after a list of uses, none where R127 is broken. -/
def lineRun (trn : Nat) (at0 : LineAt) : List LineUse → Option LineAt
  | [] => some at0
  | u :: us =>
    match lineNext trn at0 u with
    | some at1 => lineRun trn at1 us
    | none => none

/-- The places of the line between commands: unused, driven, or given back by a whole group of turnaround cycles. -/
def atRest (trn : Nat) : LineAt → Bool
  | .start => true
  | .driving => true
  | .sampling => false
  | .toSample _ => false
  | .toDrive k => k == trn

/-- A trace keeps the turnaround rule R127 and ends with the line at rest. -/
def TurnaroundOk (trn : Nat) (trace : List WireEvent) : Prop :=
  ∃ place, lineRun trn .start (trace.filterMap lineUse) = some place ∧ atRest trn place = true

end Sys2Proof
end

