-- ==== Sys2Proof/Certificates/Slice0/Obligations.lean ====
section
/-!
DEFINITION. The statements for the provers, made from the numbered rules of spec/. Each docstring names the rules it
formalises; OBLIGATIONS.json lists them.
-/

open Sys2Proof Sys2Proof.Machine

/-! ## Encoding -/

/-- Decoding the packet of a command gives the command back, for every operand value, legal or not (30 R81, R83, R92 to
R96). -/
def Obligations.DecodeEncodeCommand : Prop :=
  ∀ i : Instr, i.isCommand = true → decodePacket (encodePacket i) = .ok i

/-- Decoding the wire word of a well-formed wire field gives the field back, under every legal configuration (30 R97 to
R101). -/
def Obligations.DecodeEncodeWireField : Prop :=
  ∀ (c : Config) (i : Instr), Legal c → i.isCommand = false → i.wellFormed = true →
    ∃ ww, encode c i = .wire ww ∧ decodeWire c ww = .ok i

/-- A packet the decoder accepts is the encoding of the command it reads: no bit of a packet is ignored (30 R80, R91). -/
def Obligations.AcceptedPacketIsItsEncoding : Prop :=
  ∀ (p : Packet) (i : Instr), decodePacket p = .ok i → i.isCommand = true ∧ encodePacket i = p

/-- The length of each packet by its first two bytes (R83); and which packets pass steps 1 to 3 of Decode: exactly those of
that length whose SEL, for XFER and QPUSH, has no reserved bit set, so that a shorter or a longer packet never does (30
R83, R84). -/
def Obligations.DecoderAcceptsExactly : Prop :=
  (∀ b1 : Byte,
      packetLength 0x01 b1 = some 1 ∧ packetLength 0x07 b1 = some 1 ∧ packetLength 0x08 b1 = some 1 ∧
        packetLength 0x02 b1 = some 3 ∧ packetLength 0x03 b1 = some 5 ∧ packetLength 0x04 b1 = some 6 ∧
        ∀ op : Byte, op = 0x05 ∨ op = 0x06 →
          packetLength op b1 = some (if b1.getLsbD 1 = true then 2 else 6)) ∧
    ∀ p : Packet,
      (∃ i, decodePacket p = .ok i) ↔
        packetLength (p.getD 0 0#8) (p.getD 1 0#8) = some p.length ∧
          (p.getD 0 0#8 = 0x05 ∨ p.getD 0 0#8 = 0x06 → (p.getD 1 0#8).extractLsb' 4 4 = 0#4)

/-- Words written out from the tables of R81 and R97 to R101 decode to the instructions they stand for. That an 8-bit word
is read as SWD.REQ and a 35-bit word as SCAN.DR, and under the example configuration, is the model's choice in
decodeTableWord (log entries 18 and 1). -/
def Obligations.SampleWordsDecode : Prop :=
  decodePacket [0x01] = .ok .info ∧
    decodePacket [0x02, 0x01, 0x01] = .ok (.connect 0x01 0x01) ∧
    decodePacket [0x03, 0x40, 0x42, 0x0F, 0x00] = .ok (.clock 1000000) ∧
    decodePacket [0x04, 0x01, 0xE8, 0x03, 0x00, 0x00] = .ok (.reset 0x01 1000) ∧
    decodePacket [0x05, 0x06] = .ok (.xferR { port := .dp, addr := 1 }) ∧
    decodePacket [0x06, 0x05, 0x00, 0x00, 0x00, 0x20] = .ok (.qpushW { port := .ap, addr := 1 } 0x20000000) ∧
    decodeTableWord 8 0b10100101 = some (.swdReq 0b0010) ∧
    decodeTableWord 35 0b011 = some (.scanDr true true false 0)

/-- The request header of every selector: Start 1, the four selector bits, the parity bit that makes bits 1 to 5 even,
Stop 0, Park 1; and no two selectors share a header (30 R97, 41 R154 e). -/
def Obligations.HeaderLayout : Prop :=
  (∀ sel : Sel,
      (header sel).getLsbD 0 = true ∧ (header sel).extractLsb' 1 4 = sel ∧
        ((bitsLsbFirst ((header sel).extractLsb' 1 5) 5).count true) % 2 = 0 ∧
        (header sel).getLsbD 6 = false ∧ (header sel).getLsbD 7 = true) ∧
    ∀ a b : Sel, header a = header b → a = b

/-- The acknowledgement parser: 0b001 is OK, 0b010 WAIT, 0b100 FAULT, each of the five other values NO_ACK (41 R143). -/
def Obligations.AckParser : Prop :=
  ackClass 0b001#3 = .ok ∧ ackClass 0b010#3 = .wait ∧ ackClass 0b100#3 = .fault ∧
    ∀ a : BitVec 3, a ≠ 0b001#3 → a ≠ 0b010#3 → a ≠ 0b100#3 → ackClass a = .noAck

/-- The parity functions: parity4 is the exclusive or of the selector's bits and header bit 5; parity32 is 1 exactly for an
odd number of ones and is the last bit of the data phase, whose 33 bits then hold an even number of ones; the rule's seven
examples (41 R150, 30 R99). -/
def Obligations.DataPhaseHasEvenParity : Prop :=
  (∀ sel : Sel,
      parity4 sel = (sel.getLsbD 0 ^^ sel.getLsbD 1 ^^ sel.getLsbD 2 ^^ sel.getLsbD 3) ∧
        (header sel).getLsbD 5 = parity4 sel) ∧
    (∀ v : Word,
      (parity32 v = true ↔ ((bitsLsbFirst v 32).count true) % 2 = 1) ∧
        bitsLsbFirst (dataWord v (parity32 v)) 33 = bitsLsbFirst v 32 ++ [parity32 v] ∧
        ((bitsLsbFirst (dataWord v (parity32 v)) 33).count true) % 2 = 0) ∧
    parity32 0 = false ∧ parity32 1 = true ∧ parity32 0xFFFFFFFF = false ∧ parity32 0x0BC12477 = false ∧
    parity32 0x12345678 = true ∧ parity32 0x80000001 = false ∧ parity32 0x00000007 = true

/-! ## Reset -/

/-- The reset values of R50, for every configuration: those the spec states. -/
def Obligations.ResetValues : Prop :=
  ∀ c : Config,
    (State.resetWith c).ses =
        { half := c.halfReset, disc := .none, rst := false, aoe := false, errCnt := 0, ovrCnt := 0
          dstate := .idle, irState := .none } ∧
      (State.resetWith c).queue.head = 0 ∧ (State.resetWith c).queue.count = 0 ∧
      (State.resetWith c).pin.clkOE = false ∧ (State.resetWith c).pin.dioOE = false ∧
      rstO (State.resetWith c) = false ∧ (State.resetWith c).rspBuf = [] ∧
      cmdReady (State.resetWith c) = true ∧ rspValid (State.resetWith c) = false

/-- The reset state meets the invariant, under every legal configuration (10 R34, R41, R50). -/
def Obligations.ResetMeetsInvariant : Prop :=
  ∀ c : Config, Legal c → Inv (State.resetWith c)

/-- While rst_n is low a step puts DPSE into the reset state: nothing is accepted or offered, the lines are not driven,
the reset line is released; the inputs, the responses taken and the trace stay (70 R280; what stays is log entry 19). -/
def Obligations.HardwareResetStep : Prop :=
  ∀ s : State, s.host.rstN = false →
    ∃ t, step s = .next t ∧ t.ses = Session.reset s.cfg ∧ t.queue.head = 0 ∧ t.queue.count = 0 ∧ t.rspBuf = [] ∧
      t.pin.clkOE = false ∧ t.pin.dioOE = false ∧ rstO t = false ∧ cmdReady t = false ∧ rspValid t = false ∧
      t.cfg = s.cfg ∧ t.host = s.host ∧ t.wire.trace = s.wire.trace

/-- A hardware reset inside a command abandons it: the whole wire events before the cut have happened, the one in flight is
cut short after some of its ticks and left out of the trace, no response is produced, DPSE is in the reset state. The
clock line stops being driven at the level it had: high exactly where the low phase of a cut cycle had passed. A sample
is used up exactly where its tick has passed (70 R280, 93 U17, 40 R124; how the cut is given and recorded, and that a
reset on the edge that ends an event comes before it, so that all ticks of the event in flight may have passed, is log
entry 10). -/
def Obligations.ResetInsideCommand : Prop :=
  ∀ (s : State) (p : Packet) (rest : List Packet) (cut : ResetCut), Inv s → s.host.rstN = true → s.rspBuf = [] →
    s.host.cmdIn = p :: rest → s.host.rstCut = some cut →
    ∃ t u evs short, runPacket p (accept p rest s) = .next u ∧ u.wire.trace = s.wire.trace ++ evs ∧
      step s = .next t ∧ t.wire.trace = s.wire.trace ++ evs.take cut.events ∧
      t.wire.cuts = s.wire.cuts ++ [short] ∧ short.place = t.wire.trace.length ∧
      (∀ e, evs[cut.events]? = some e →
        short.ticks = min cut.ticks (eventTicks e) ∧ short.shown = (timeline e).take short.ticks) ∧
      (evs[cut.events]? = none → short.ticks = 0 ∧ short.shown = []) ∧
      (short.clk = none ↔ s.pin.clkOE = false) ∧
      (short.clk = some true ↔
        s.pin.clkOE = true ∧ ∃ e h, evs[cut.events]? = some e ∧ eventHalf e = some h ∧ h < short.ticks) ∧
      (∀ e h, evs[cut.events]? = some e → eventHalf e = some h →
        short.shown.countP Tick.sampled = if isSample e = true ∧ h ≤ short.ticks then 1 else 0) ∧
      (∃ k, k = (evs.take cut.events).countP isSample + short.shown.countP Tick.sampled ∧
        t.wire.drawn = s.wire.drawn + k ∧ t.wire.answers = s.wire.answers.drop k) ∧
      t.ses = Session.reset s.cfg ∧ t.queue.count = 0 ∧ t.rspBuf = [] ∧ t.pin.clkOE = false ∧ t.pin.dioOE = false ∧
      t.host.rspOut = s.host.rspOut ∧ t.host.cmdIn = rest ∧ t.host.rstCut = none ∧ t.cfg = s.cfg

/-! ## The step -/

/-- When the packet on offer decodes to a command, the step runs exactly it, on the state that has taken the packet from
the channel and its opcode byte into W.OP (00 R9, 30 R84). -/
def Obligations.StepRunsCommand : Prop :=
  ∀ (s : State) (p : Packet) (rest : List Packet) (i : Instr), s.host.rstN = true → s.host.rstCut = none →
    s.wire.field = none → s.rspBuf = [] → s.host.cmdIn = p :: rest → decodePacket p = .ok i →
    step s = exec i (accept p rest s) ∧
      accept p rest s =
        { s with host := { s.host with cmdIn := rest }, work := { s.work with op := p.headD 0#8 } }

/-- When a wire word has been handed to the codec and decodes to a field, the step runs exactly it, on the state whose
codec entry is empty (00 R9; the entry is the model's, log entry 8). -/
def Obligations.StepRunsWireField : Prop :=
  ∀ (s : State) (ww : WireWord) (i : Instr), s.host.rstN = true → s.wire.field = some ww →
    decodeWire s.cfg ww = .ok i →
    step s = exec i (takeField s) ∧ takeField s = { s with wire := { s.wire with field := none } }

/-- A malformed packet is answered [its opcode byte, BAD_COMMAND], the empty one [0x00, BAD_COMMAND], and changes no
state, drives no pin and counts in no counter (30 R84 steps 1 to 3, R88, R89, R90). -/
def Obligations.StepAnswersMalformed : Prop :=
  ∀ (s : State) (p : Packet) (rest : List Packet) (e : DecodeError), s.host.rstN = true → s.host.rstCut = none →
    s.wire.field = none → s.rspBuf = [] → s.host.cmdIn = p :: rest → decodePacket p = .error e →
    ∃ t, step s = .next t ∧ t.rspBuf = [p.headD 0x00#8, 0x07#8] ∧ t.host = { s.host with cmdIn := rest } ∧
      t.ses = s.ses ∧ t.queue = s.queue ∧ t.pin = s.pin ∧ t.wire = s.wire ∧ t.cfg = s.cfg

/-- A response on offer is held unchanged until the host side takes it, with cmd_ready low; taken, it goes over whole and
RSPBUF empties (10 R36, 20 R75, 70 R296). -/
def Obligations.ResponseHeldUntilTaken : Prop :=
  ∀ s : State, s.host.rstN = true → s.wire.field = none → s.rspBuf ≠ [] →
    cmdReady s = false ∧ rspValid s = true ∧
      (s.host.rspReady = false → step s = .next s) ∧
      (s.host.rspReady = true →
        ∃ t, step s = .next t ∧ t.host = { s.host with rspOut := s.host.rspOut ++ [s.rspBuf] } ∧ t.rspBuf = [] ∧
          cmdReady t = true ∧ t.ses = s.ses ∧ t.queue = s.queue ∧ t.pin = s.pin ∧ t.work = s.work ∧
          t.timers = s.timers ∧ t.wire = s.wire ∧ t.cfg = s.cfg)

/-- With no packet on offer DPSE holds its state (70 R281, 60 R271). -/
def Obligations.StepWaitsForPacket : Prop :=
  ∀ s : State, s.host.rstN = true → s.wire.field = none → s.rspBuf = [] → s.host.cmdIn = [] → step s = .next s

/-- HEADLINE. Every step keeps the invariant: the dispatcher state follows the discipline and the queue (10 R34), the pins
follow the discipline (R41), S.HALF and the queue stay in range (R21, R32), every response fits (00 R11). -/
def Obligations.StepKeepsInvariant : Prop :=
  ∀ s t : State, Inv s → step s = .next t → Inv t

/-- No stuck state: from every state of the invariant the step is a next state, whatever the host offers and
whatever the target answers (60 R263, R265; 20 R72). -/
def Obligations.NoStuckState : Prop :=
  ∀ s : State, Inv s → ∃ t, step s = .next t

/-- Every packet, well-formed or not, gets one response packet of 2 to RSP_MAX bytes: byte 0 is the packet's opcode byte,
0x00 for the empty packet, byte 1 a status code of R250 (30 R85, 00 R11). -/
def Obligations.EveryPacketIsAnswered : Prop :=
  ∀ (s : State) (p : Packet) (rest : List Packet), Inv s → s.host.rstN = true → s.host.rstCut = none →
    s.rspBuf = [] → s.host.cmdIn = p :: rest →
    ∃ t st, step s = .next t ∧ t.host = { s.host with cmdIn := rest } ∧ 2 ≤ t.rspBuf.length ∧
      t.rspBuf.length ≤ s.cfg.rspMax ∧ t.rspBuf.headD 0#8 = p.headD 0x00#8 ∧ t.rspBuf.getD 1 0#8 = Status.code st

/-! ## Session commands -/

/-- INFO answers a constant of the configuration and writes no state (42 R181, R182). -/
def Obligations.InfoAnswersConstant : Prop :=
  ∀ s : State,
    ∃ t, exec .info s = .next t ∧ Quiet s t ∧
      t.rspBuf =
        [0x01#8, 0x00#8, s.cfg.infoVersion, if s.cfg.hasAux then 0x03#8 else 0x01#8, BitVec.ofNat 8 s.cfg.qcap,
            BitVec.ofNat 8 s.cfg.waitRetryMax] ++
          le32 (BitVec.ofNat 32 (s.cfg.fSys / (2 * s.cfg.halfMin))) ++
          le32 (BitVec.ofNat 32 (fMin s.cfg))

/-- CONNECT: the four refusals in their order, each with no effect; else the discipline, S.AOE from FLAGS bit 0, the
counters and S.IR_STATE cleared, Connected, both lines driven low, and the counters before the clear in the response.
S.HALF, S.RST, the queue and the trace are not written (42 R183). -/
def Obligations.ConnectSelectsOrRefuses : Prop :=
  ∀ (s : State) (disc flags : Byte),
    ((disc ≠ 1#8 ∧ disc ≠ 2#8) ∨ (disc = 2#8 ∧ s.cfg.hasAux = false) ∨ flags.extractLsb' 1 7 ≠ 0#7 →
        ∃ t, exec (.connect disc flags) s = .next t ∧ t.rspBuf = [0x02#8, 0x07#8] ∧ Quiet s t) ∧
      ((disc = 1#8 ∨ (disc = 2#8 ∧ s.cfg.hasAux = true)) ∧ flags.extractLsb' 1 7 = 0#7 →
        (s.ses.dstate = .queuing →
            ∃ t, exec (.connect disc flags) s = .next t ∧ t.rspBuf = [0x02#8, 0x09#8] ∧ Quiet s t) ∧
          (s.ses.dstate ≠ .queuing →
            ∃ t, exec (.connect disc flags) s = .next t ∧
              t.rspBuf = [0x02#8, 0x00#8] ++ le16 s.ses.errCnt ++ le16 s.ses.ovrCnt ∧
              t.ses =
                { half := s.ses.half, disc := if disc = 1#8 then .swd else .scan, rst := s.ses.rst
                  aoe := flags.getLsbD 0, errCnt := 0, ovrCnt := 0, dstate := .connected, irState := .none } ∧
              t.pin = { clkO := false, clkOE := true, dioO := false, dioOE := true } ∧
              t.queue = s.queue ∧ t.wire = s.wire ∧ t.host = s.host ∧ t.cfg = s.cfg))

/-- CLOCK: a request below F_MIN is refused with no effect; else S.HALF is max(HALF_MIN, ceil(F_SYS / (2 * FREQ))), the
response reports floor(F_SYS / (2 * S.HALF)), and nothing else is written, in every dispatcher state (42 R186, R188). -/
def Obligations.ClockSetsHalfOrRefuses : Prop :=
  ∀ (s : State) (freq : Word),
    (freq.toNat < fMin s.cfg →
        ∃ t, exec (.clock freq) s = .next t ∧ t.rspBuf = [0x03#8, 0x07#8] ∧ Quiet s t) ∧
      (fMin s.cfg ≤ freq.toNat →
        ∃ t, exec (.clock freq) s = .next t ∧
          t.ses = { s.ses with half := max s.cfg.halfMin (ceilDiv s.cfg.fSys (2 * freq.toNat)) } ∧
          t.rspBuf = [0x03#8, 0x00#8] ++ le32 (BitVec.ofNat 32 (s.cfg.fSys / (2 * t.ses.half))) ∧
          t.queue = s.queue ∧ t.pin = s.pin ∧ t.wire = s.wire ∧ t.host = s.host ∧ t.cfg = s.cfg)

/-- The clamp: for a legal request the half-period is in range, its rate F_SYS / (2h) is at or below the request, no
achievable half-period gives a higher rate at or below the request, and the reported rate is at most the request (42 R187
a, b). -/
def Obligations.ClampIsClosestFromBelow : Prop :=
  ∀ (c : Config) (f : Nat), Legal c → fMin c ≤ f →
    c.halfMin ≤ halfFor c f ∧ halfFor c f ≤ halfMax c ∧ c.fSys ≤ 2 * halfFor c f * f ∧
      (∀ h, c.halfMin ≤ h → h ≤ halfMax c → c.fSys ≤ 2 * h * f → halfFor c f ≤ h) ∧
      rateOf c (halfFor c f) ≤ f ∧ rateOf c (halfFor c f) < 2 ^ 32

/-- The clamp is monotonic, and a request above the maximum gets the maximum with no error (42 R187 c for FREQ above
F_MAX, and d; at FREQ = F_MAX see log entry 14). -/
def Obligations.ClampIsMonotonicAndTopsOut : Prop :=
  ∀ c : Config, Legal c →
    (∀ f g, fMin c ≤ f → f ≤ g → halfFor c g ≤ halfFor c f) ∧
      ∀ f, fMax c < f → halfFor c f = c.halfMin ∧ rateOf c (halfFor c f) = fMax c

/-- RESET: LEVEL above 1 is refused with no effect; an untimed RESET sets the line and keeps it; a timed one sets it,
holds ceil(DURATION * F_SYS / 1000000) ticks and goes to the opposite level. Only S.RST and the trace are written, in
every dispatcher state (42 R189). -/
def Obligations.ResetDrivesResetLine : Prop :=
  ∀ (s : State) (level : Byte) (duration : Word),
    (1 < level.toNat →
        ∃ t, exec (.reset level duration) s = .next t ∧ t.rspBuf = [0x04#8, 0x07#8] ∧ Quiet s t) ∧
      ∀ l : Bool, level = (if l then 1#8 else 0#8) →
        (duration = 0#32 →
            ∃ t, exec (.reset level duration) s = .next t ∧ t.ses = { s.ses with rst := l } ∧
              t.rspBuf = [0x04#8, 0x00#8, if l then 1#8 else 0#8] ∧
              t.wire = { s.wire with trace := s.wire.trace ++ [.resetLine l] } ∧
              t.queue = s.queue ∧ t.pin = s.pin ∧ t.host = s.host ∧ t.cfg = s.cfg) ∧
          (duration ≠ 0#32 →
            ∃ t, exec (.reset level duration) s = .next t ∧ t.ses = { s.ses with rst := !l } ∧
              t.rspBuf = [0x04#8, 0x00#8, if l then 0#8 else 1#8] ∧
              t.wire =
                { s.wire with
                  trace := s.wire.trace ++
                    [.resetLine l, .hold (ceilDiv (duration.toNat * s.cfg.fSys) 1000000), .resetLine (!l)] } ∧
              t.queue = s.queue ∧ t.pin = s.pin ∧ t.host = s.host ∧ t.cfg = s.cfg)

/-- The hold of a timed RESET is never shorter than requested, and less than one tick longer (42 R190). -/
def Obligations.ResetHoldNeverShort : Prop :=
  ∀ (c : Config) (duration : Word),
    duration.toNat * c.fSys ≤ resetTicks c duration * 1000000 ∧
      resetTicks c duration * 1000000 < duration.toNat * c.fSys + 1000000

/-- ABORT, from any state: the queue, the counters, the discipline and S.IR_STATE are cleared, Idle, both lines released,
the counters before the clear in the response. S.HALF, S.AOE, S.RST and the trace are not written (42 R192). -/
def Obligations.AbortClears : Prop :=
  ∀ s : State,
    ∃ t, exec .abort s = .next t ∧
      t.rspBuf = [0x08#8, 0x00#8] ++ le16 s.ses.errCnt ++ le16 s.ses.ovrCnt ∧
      t.ses =
        { half := s.ses.half, disc := .none, rst := s.ses.rst, aoe := s.ses.aoe, errCnt := 0, ovrCnt := 0
          dstate := .idle, irState := .none } ∧
      t.queue.head = 0 ∧ t.queue.count = 0 ∧ entries t.cfg t.queue = [] ∧
      t.pin.clkOE = false ∧ t.pin.dioOE = false ∧ t.wire = s.wire ∧ t.host = s.host ∧ t.cfg = s.cfg

/-! ## Transfers -/

/-- An XFER read in the SWD discipline that the target answers WAIT n times, within the retry budget, and then OK with a
value and its right parity: the response carries the value, the trace is n whole WAIT transactions and one whole read, no
error is counted, and nothing else changes (43 R212, R214; 41 R144, R149, R153, R157). -/
def Obligations.XferReadReturnsValue : Prop :=
  ∀ (s : State) (loc : Loc) (v : Word) (n : Nat) (rest : List Bool), s.ses.dstate = .connected →
    codecReady s = true → s.ses.disc = .swd → n ≤ s.cfg.waitRetryMax →
    s.wire.answers = waitAnswers n ++ (ackOk ++ (bitsLsbFirst v 32 ++ [parity32 v])) ++ rest →
    ∃ t, exec (.xferR loc) s = .next t ∧ t.rspBuf = [0x05#8, 0x00#8] ++ le32 v ∧
      t.wire.trace =
        s.wire.trace ++ waitTrace s.cfg s.ses.half (selOf loc true) n ++
          readTrace s.cfg s.ses.half (selOf loc true) (bitsLsbFirst v 32) (parity32 v) ∧
      t.wire.answers = rest ∧ t.wire.field = s.wire.field ∧ t.ses = s.ses ∧ t.queue = s.queue ∧
      t.pin = drivenLow ∧ t.host = s.host ∧ t.cfg = s.cfg

/-- The same with a wrong parity bit: status PARITY_ERR, the value withheld, one error counted (41 R149, 43 R213, R229). -/
def Obligations.XferReadParityError : Prop :=
  ∀ (s : State) (loc : Loc) (v : Word) (n : Nat) (rest : List Bool), s.ses.dstate = .connected →
    codecReady s = true → s.ses.disc = .swd → n ≤ s.cfg.waitRetryMax →
    s.wire.answers = waitAnswers n ++ (ackOk ++ (bitsLsbFirst v 32 ++ [!parity32 v])) ++ rest →
    ∃ t, exec (.xferR loc) s = .next t ∧ t.rspBuf = [0x05#8, 0x03#8] ∧
      t.wire.trace =
        s.wire.trace ++ waitTrace s.cfg s.ses.half (selOf loc true) n ++
          readTrace s.cfg s.ses.half (selOf loc true) (bitsLsbFirst v 32) (!parity32 v) ∧
      t.wire.answers = rest ∧ t.wire.field = s.wire.field ∧
      t.ses = { s.ses with errCnt := satInc s.ses.errCnt } ∧ t.queue = s.queue ∧
      t.pin = drivenLow ∧ t.host = s.host ∧ t.cfg = s.cfg

/-- An XFER write in the SWD discipline, after n WAIT answers within the budget: the value and its computed parity are
driven, status OK, nothing else changes (43 R212, R214; 41 R145, R153, R157). -/
def Obligations.XferWriteDrivesValue : Prop :=
  ∀ (s : State) (loc : Loc) (v : Word) (n : Nat) (rest : List Bool), s.ses.dstate = .connected →
    codecReady s = true → s.ses.disc = .swd → n ≤ s.cfg.waitRetryMax →
    s.wire.answers = waitAnswers n ++ ackOk ++ rest →
    ∃ t, exec (.xferW loc v) s = .next t ∧ t.rspBuf = [0x05#8, 0x00#8] ∧
      t.wire.trace =
        s.wire.trace ++ waitTrace s.cfg s.ses.half (selOf loc false) n ++
          writeTrace s.cfg s.ses.half (selOf loc false) v ∧
      t.wire.answers = rest ∧ t.wire.field = s.wire.field ∧ t.ses = s.ses ∧ t.queue = s.queue ∧
      t.pin = drivenLow ∧ t.host = s.host ∧ t.cfg = s.cfg

/-- Either form of XFER, after n WAIT answers within the budget, answered with an acknowledgement that is neither OK nor
WAIT: status FAULT or NO_ACK by the parser, no data phase, one error counted (41 R143, R147, R148; 43 R212, R213). -/
def Obligations.XferFaultOrNoAck : Prop :=
  ∀ (s : State) (i : Instr) (sel : Sel) (ack : BitVec 3) (n : Nat) (rest : List Bool),
    (∃ loc, i = .xferR loc ∧ sel = selOf loc true) ∨ (∃ loc v, i = .xferW loc v ∧ sel = selOf loc false) →
    s.ses.dstate = .connected → codecReady s = true → s.ses.disc = .swd → n ≤ s.cfg.waitRetryMax →
    ack ≠ 1#3 → ack ≠ 2#3 → s.wire.answers = waitAnswers n ++ bitsLsbFirst ack 3 ++ rest →
    ∃ t, exec i s = .next t ∧ t.rspBuf = [0x05#8, if ack = 4#3 then 0x02#8 else 0x08#8] ∧
      t.wire.trace =
        s.wire.trace ++ waitTrace s.cfg s.ses.half sel n ++
          refusedTrace s.cfg s.ses.half sel (bitsLsbFirst ack 3) ∧
      t.wire.answers = rest ∧ t.wire.field = s.wire.field ∧
      t.ses = { s.ses with errCnt := satInc s.ses.errCnt } ∧ t.queue = s.queue ∧
      t.pin = drivenLow ∧ t.host = s.host ∧ t.cfg = s.cfg

/-- Either form of XFER answered WAIT on each of WAIT_RETRY_MAX + 1 transactions: no further one is made, the status is
TIMEOUT, or WAIT where retries are not implemented, and one error is counted (43 R211 to R213; 60 R252, R255). -/
def Obligations.XferWaitBudgetExhausted : Prop :=
  ∀ (s : State) (i : Instr) (sel : Sel) (rest : List Bool),
    (∃ loc, i = .xferR loc ∧ sel = selOf loc true) ∨ (∃ loc v, i = .xferW loc v ∧ sel = selOf loc false) →
    s.ses.dstate = .connected → codecReady s = true → s.ses.disc = .swd →
    s.wire.answers = waitAnswers (s.cfg.waitRetryMax + 1) ++ rest →
    ∃ t, exec i s = .next t ∧ t.rspBuf = [0x05#8, if s.cfg.waitRetryMax = 0 then 0x01#8 else 0x04#8] ∧
      t.wire.trace = s.wire.trace ++ waitTrace s.cfg s.ses.half sel (s.cfg.waitRetryMax + 1) ∧
      t.wire.answers = rest ∧ t.wire.field = s.wire.field ∧
      t.ses = { s.ses with errCnt := satInc s.ses.errCnt } ∧ t.queue = s.queue ∧
      t.pin = drivenLow ∧ t.host = s.host ∧ t.cfg = s.cfg

/-- XFER in the scan discipline: a chain-select field exactly when S.IR_STATE does not name the port already, then the
35-bit word; always status OK; a read returns incoming bits 3 to 34; S.IR_STATE names the port; no error is counted (41
R160 to R166; 43 R214). -/
def Obligations.XferScan : Prop :=
  ∀ (s : State) (i : Instr) (sel : Sel) (wdata : Word) (lead : List Bool) (low : List Bool) (v : Word)
    (rest : List Bool),
    (∃ loc, i = .xferR loc ∧ sel = selOf loc true ∧ wdata = 0#32) ∨
      (∃ loc, i = .xferW loc wdata ∧ sel = selOf loc false) →
    s.ses.dstate = .connected → codecReady s = true → s.ses.disc = .scan →
    lead.length = (if s.ses.irState = irOf (selPort sel) then 0 else s.cfg.scanIrLen) → low.length = 3 →
    s.wire.answers = lead ++ (low ++ bitsLsbFirst v 32) ++ rest →
    ∃ t, exec i s = .next t ∧
      t.rspBuf = [0x05#8, 0x00#8] ++ (if selIsRead sel then le32 v else []) ∧
      t.wire.trace =
        s.wire.trace ++
            (if s.ses.irState = irOf (selPort sel) then []
              else scans s.ses.half (bitsLsbFirst (scanIrCode s.cfg (selPort sel)) s.cfg.scanIrLen) lead) ++
          scans s.ses.half (bitsLsbFirst (scanWord sel wdata) 35) (low ++ bitsLsbFirst v 32) ∧
      t.wire.answers = rest ∧ t.wire.field = s.wire.field ∧
      t.ses = { s.ses with irState := irOf (selPort sel) } ∧ t.queue = s.queue ∧
      t.pin = drivenLow ∧ t.host = s.host ∧ t.cfg = s.cfg

/-- XFER in Connected completes whatever the target answers, listed or not: a status that R211 allows, with the whole wire
activity that goes with it (R212; scan-style, the chain-select field exactly when S.IR_STATE does not name the port); a
value exactly for a read that ended OK, the one on the wire; one error counted exactly for the statuses of R213;
S.IR_STATE as it was in the SWD discipline and naming the port in the scan discipline; and the frame (43 R211 to R215,
41 R161, R162). -/
def Obligations.XferAlwaysCompletes : Prop :=
  ∀ (s : State) (i : Instr) (sel : Sel) (wdata : Word),
    (∃ loc, i = .xferR loc ∧ sel = selOf loc true ∧ wdata = 0#32) ∨
      (∃ loc, i = .xferW loc wdata ∧ sel = selOf loc false) →
    s.ses.dstate = .connected → codecReady s = true →
    ∃ t st v evs, exec i s = .next t ∧ runOpStatus s.cfg s.ses.disc (selIsRead sel) st ∧
      opOnWire s.cfg s.ses.half s.ses.irState sel wdata s.cfg.waitRetryMax st v evs s.ses.disc ∧
      t.rspBuf = 0x05#8 :: st.code :: (if selIsRead sel = true ∧ st = .ok then le32 v else []) ∧
      t.ses =
        { s.ses with
          irState := t.ses.irState
          errCnt := if st = .ok then s.ses.errCnt else satInc s.ses.errCnt } ∧
      (s.ses.disc = .swd → t.ses.irState = s.ses.irState) ∧
      (s.ses.disc = .scan → t.ses.irState = irOf (selPort sel)) ∧
      t.wire.trace = s.wire.trace ++ evs ∧ t.wire.field = s.wire.field ∧ t.queue = s.queue ∧
      t.pin = drivenLow ∧ t.host = s.host ∧ t.cfg = s.cfg

/-- XFER outside Connected is refused with BAD_STATE and no effect (43 R215). -/
def Obligations.XferRefusedOutsideConnected : Prop :=
  ∀ (s : State) (i : Instr), (∃ loc, i = .xferR loc) ∨ (∃ loc v, i = .xferW loc v) →
    s.ses.dstate ≠ .connected → ∃ t, exec i s = .next t ∧ t.rspBuf = [0x05#8, 0x09#8] ∧ Quiet s t

/-- Round trip: the 33 levels a write drives in its data phase, played back by the target as the data phase of a read of
the same location, give the value written (95 sections 1 and 2; 41 R144, R145). -/
def Obligations.RoundTrip : Prop :=
  ∀ (s : State) (loc : Loc) (v : Word) (rest rest2 : List Bool), s.ses.dstate = .connected →
    codecReady s = true → s.ses.disc = .swd → s.wire.answers = ackOk ++ rest →
    ∃ t, exec (.xferW loc v) s = .next t ∧
      ∀ kept, kept = (drivenLevels t.wire.trace).drop ((drivenLevels t.wire.trace).length - 33) →
        ∃ u, exec (.xferR loc) (t.setWire { t.wire with answers := ackOk ++ kept ++ rest2 }) = .next u ∧
          u.rspBuf = [0x05#8, 0x00#8] ++ le32 v

/-- QPUSH with room, in Connected or Queuing: the Operation goes behind the held ones, which stay as they are; Queuing;
FREE in the response; nothing reaches the wire (43 R216, R217). -/
def Obligations.QpushAppends : Prop :=
  ∀ (s : State) (i : Instr) (sel : Sel) (wdata : Option Word),
    (∃ loc, i = .qpushR loc ∧ sel = selOf loc true ∧ wdata = none) ∨
      (∃ loc v, i = .qpushW loc v ∧ sel = selOf loc false ∧ wdata = some v) →
    s.ses.dstate ≠ .idle → QueueInRange s → s.queue.count < s.cfg.qcap →
    ∃ t e, exec i s = .next t ∧ entries t.cfg t.queue = entries s.cfg s.queue ++ [e] ∧ e.sel = sel ∧
      (∀ v, wdata = some v → e.wdata = v) ∧ t.queue.count = s.queue.count + 1 ∧ QueueInRange t ∧
      t.rspBuf = [0x06#8, 0x00#8, BitVec.ofNat 8 (s.cfg.qcap - (s.queue.count + 1))] ∧
      t.ses = { s.ses with dstate := .queuing } ∧ t.pin = s.pin ∧ t.wire = s.wire ∧ t.host = s.host ∧ t.cfg = s.cfg

/-- QPUSH on a full queue: QUEUE_FULL with FREE 0, the queue and the dispatcher state unchanged, one overrun counted with
saturation (43 R218, R228; 60 R256). -/
def Obligations.QpushOnFullQueue : Prop :=
  ∀ (s : State) (i : Instr), (∃ loc, i = .qpushR loc) ∨ (∃ loc v, i = .qpushW loc v) →
    s.ses.dstate ≠ .idle → s.queue.count = s.cfg.qcap →
    ∃ t, exec i s = .next t ∧ t.rspBuf = [0x06#8, 0x05#8, 0x00#8] ∧ t.queue = s.queue ∧
      t.ses = { s.ses with ovrCnt := if s.ses.ovrCnt = 0xFFFF#16 then 0xFFFF#16 else s.ses.ovrCnt + 1#16 } ∧
      t.pin = s.pin ∧ t.wire = s.wire ∧ t.host = s.host ∧ t.cfg = s.cfg

/-- QPUSH and QEXEC in Idle are refused with BAD_STATE and no effect (43 R217, R221). -/
def Obligations.QueueCommandsRefusedInIdle : Prop :=
  ∀ (s : State) (i : Instr), s.ses.dstate = .idle →
    ((∃ loc, i = .qpushR loc) ∨ (∃ loc v, i = .qpushW loc v) →
        ∃ t, exec i s = .next t ∧ t.rspBuf = [0x06#8, 0x09#8] ∧ Quiet s t) ∧
      (i = .qexec → ∃ t, exec i s = .next t ∧ t.rspBuf = [0x07#8, 0x09#8] ∧ Quiet s t)

/-- QEXEC drains the whole queue in order: one result and one stretch of the trace per held entry, oldest first, each the
whole wire activity of the entry's own Operation with its final status (WAIT transactions, then the last transaction;
scan-style, the chain-select field exactly when S.IR_STATE does not name the port yet), with the value of its record on
the wire; after the first stopping status under S.AOE every entry is NOT_EXECUTED with no wire event, and before it none
is; header and records as R226 and R229 lay them out; S.ERR_CNT counts the results R213 counts; S.IR_STATE is as it was
in the SWD discipline and names the port of the last entry, which is executed, in the scan discipline; the queue is
empty, Connected (43 R211 to R213, R221 to R229, 41 R161, R162). -/
def Obligations.QexecDrainsInOrder : Prop :=
  ∀ s : State, s.ses.dstate ≠ .idle → QueueInRange s → (s.queue.count = 0 ∨ codecReady s = true) →
    ∃ (t : State) (rs : List (Status × Word)) (evs : List (List WireEvent)), exec .qexec s = .next t ∧
      rs.length = s.queue.count ∧ evs.length = s.queue.count ∧
      t.rspBuf = batchHeaderOf s.ses.aoe (rs.map Prod.fst) ++ batchRecords (entries s.cfg s.queue) rs ∧
      t.wire.trace = s.wire.trace ++ evs.flatten ∧
      (∀ (k : Nat) (e : Op) (r : Status × Word) (ev : List WireEvent), (entries s.cfg s.queue)[k]? = some e →
        rs[k]? = some r → evs[k]? = some ev →
        (r.1 = .notExecuted ↔ ∃ j, stopIndex s.ses.aoe (rs.map Prod.fst) = some j ∧ j < k) ∧
          (r.1 = .notExecuted → ev = []) ∧
          (r.1 ≠ .notExecuted → runOpStatus s.cfg s.ses.disc (selIsRead e.sel) r.1) ∧
          (r.1 ≠ .notExecuted →
            opOnWire s.cfg s.ses.half (irAfter s.ses.irState ((entries s.cfg s.queue).take k)) e.sel e.wdata
              s.cfg.waitRetryMax r.1 r.2 ev s.ses.disc)) ∧
      t.ses =
        { s.ses with
          dstate := .connected
          irState := t.ses.irState
          errCnt := satInc^[(rs.map Prod.fst).countP Status.counted] s.ses.errCnt } ∧
      (s.ses.disc = .swd → t.ses.irState = s.ses.irState) ∧
      (s.ses.disc = .scan → t.ses.irState = irAfter s.ses.irState (entries s.cfg s.queue)) ∧
      t.queue.count = 0 ∧ QueueInRange t ∧ t.pin = (if s.queue.count = 0 then s.pin else drivenLow) ∧
      t.wire.field = s.wire.field ∧ t.host = s.host ∧ t.cfg = s.cfg

/-- In the scan discipline a batch never stops and never counts an error: every record is OK, every entry has its
transaction on the wire with the chain-select field exactly when it is needed, and S.IR_STATE names the port of the last
entry (41 R161, R162, R165, 43 R227 c). -/
def Obligations.QexecScanNeverFails : Prop :=
  ∀ s : State, s.ses.dstate ≠ .idle → QueueInRange s → codecReady s = true → s.ses.disc = .scan →
    ∃ (t : State) (vs : List Word) (evs : List (List WireEvent)), exec .qexec s = .next t ∧
      vs.length = s.queue.count ∧ evs.length = s.queue.count ∧ t.wire.trace = s.wire.trace ++ evs.flatten ∧
      (∀ (k : Nat) (e : Op) (v : Word) (ev : List WireEvent), (entries s.cfg s.queue)[k]? = some e →
        vs[k]? = some v → evs[k]? = some ev →
        scanOnWire s.cfg s.ses.half (irAfter s.ses.irState ((entries s.cfg s.queue).take k)) e.sel e.wdata v ev) ∧
      t.rspBuf =
        [0x07#8, 0x00#8, BitVec.ofNat 8 s.queue.count, BitVec.ofNat 8 s.queue.count, 0xFF#8] ++
          batchRecords (entries s.cfg s.queue) (vs.map fun v => (.ok, v)) ∧
      t.ses.errCnt = s.ses.errCnt ∧ t.ses.irState = irAfter s.ses.irState (entries s.cfg s.queue) ∧
      t.queue.count = 0

/-- The transfer commands stop, by the fault codecPrecondition, where the driver's precondition does not hold: the spec
says no command meets that (40 R126, 41 R155; the fault is the model's, log entry 9). -/
def Obligations.TransferStopsWithoutDrivenLines : Prop :=
  ∀ s : State, codecReady s = false →
    (s.ses.dstate = .connected →
        ∀ loc v, exec (.xferR loc) s = .fault .codecPrecondition ∧
          exec (.xferW loc v) s = .fault .codecPrecondition) ∧
      (s.ses.dstate ≠ .idle → s.queue.count ≠ 0 → exec .qexec s = .fault .codecPrecondition)

/-! ## Wire fields -/

/-- SWD.REQ: a turnaround where the line is not driven, then 8 D events, the header bit 0 first; W.SEL holds the
selector; the line is left at the header's last bit, 1 (30 R97, 41 R142; running the field alone and the turnaround are
the model's, log entry 8). -/
def Obligations.SwdReqDrivesHeader : Prop :=
  ∀ (s : State) (sel : Sel), swdReady s = true →
    ∃ t, exec (.swdReq sel) s = .next t ∧ t.work.sel = sel ∧
      t.wire =
        { s.wire with
          trace := s.wire.trace ++ (if s.pin.dioOE then [] else turns s.cfg s.ses.half) ++
            drives s.ses.half (bitsLsbFirst (header sel) 8) } ∧
      t.pin = { clkO := false, clkOE := true, dioO := true, dioOE := true } ∧ t.ses = s.ses ∧ t.queue = s.queue ∧
      t.rspBuf = s.rspBuf ∧ t.host = s.host ∧ t.cfg = s.cfg

/-- SWD.ACK: a turnaround where the line is driven, then 3 S events with the word's bits; W.ACK and the parser's class
(30 R98, 41 R143; running the field alone and the turnaround are the model's, log entry 8; that W.ST holds the class is log
entry 28). -/
def Obligations.SwdAckSamplesAck : Prop :=
  ∀ (s : State) (ack : BitVec 3), swdReady s = true →
    ∃ t, exec (.swdAck ack) s = .next t ∧ t.work.ack = ack ∧ t.work.st = (ackClass ack).code ∧
      t.wire.trace =
        s.wire.trace ++ (if s.pin.dioOE then turns s.cfg s.ses.half else []) ++
          samples s.ses.half (bitsLsbFirst ack 3) ∧
      t.wire.answers = s.wire.answers ∧ t.pin.dioOE = false ∧ t.pin.clkO = false ∧ t.pin.clkOE = true ∧
      t.ses = s.ses ∧ t.queue = s.queue ∧ t.rspBuf = s.rspBuf ∧ t.host = s.host ∧ t.cfg = s.cfg

/-- SWD.DATA for a read: a turnaround where the line is driven, then 33 S events with the word's bits; W.RDATA, W.PAR
and the parity check (30 R99, 41 R144, R149; running the field alone and the turnaround are the model's, log entry 8, and
so is running it whatever W.ACK holds, log entry 24; that W.ST holds the outcome is log entry 28). -/
def Obligations.SwdDataSamplesRead : Prop :=
  ∀ (s : State) (v : Word) (par : Bool), swdReady s = true → selIsRead s.work.sel = true →
    ∃ t, exec (.swdData v par) s = .next t ∧ t.work.rdata = v ∧ t.work.par = par ∧
      t.work.st = (if par = parity32 v then 0x00#8 else 0x03#8) ∧
      t.wire.trace =
        s.wire.trace ++ (if s.pin.dioOE then turns s.cfg s.ses.half else []) ++
          samples s.ses.half (bitsLsbFirst v 32 ++ [par]) ∧
      t.wire.answers = s.wire.answers ∧ t.pin.dioOE = false ∧ t.pin.clkO = false ∧ t.pin.clkOE = true ∧
      t.ses = s.ses ∧ t.queue = s.queue ∧ t.rspBuf = s.rspBuf ∧ t.host = s.host ∧ t.cfg = s.cfg

/-- SWD.DATA for a write: a turnaround where the line is not driven, then 33 D events, the value and the parity DPSE
computes; the line is left low (30 R99, 41 R145, R157; running the field alone and the turnaround are the model's, log
entry 8, running it whatever W.ACK holds is log entry 24, and that the word's own parity bit is ignored is log entry
20). -/
def Obligations.SwdDataDrivesWrite : Prop :=
  ∀ (s : State) (v : Word) (par : Bool), swdReady s = true → selIsRead s.work.sel = false →
    ∃ t, exec (.swdData v par) s = .next t ∧
      t.wire =
        { s.wire with
          trace := s.wire.trace ++ (if s.pin.dioOE then [] else turns s.cfg s.ses.half) ++
            drives s.ses.half (bitsLsbFirst v 32 ++ [parity32 v]) } ∧
      t.pin = drivenLow ∧ t.ses = s.ses ∧ t.queue = s.queue ∧ t.rspBuf = s.rspBuf ∧ t.host = s.host ∧
      t.cfg = s.cfg

/-- SCAN.IR: SCAN_IR_LEN X events with the port's code, incoming bits discarded; S.IR_STATE names the port (30 R100, 41
R161, R162; that the field runs as an instruction of its own is the model's choice, log entry 8, and so is that it is
shifted even when S.IR_STATE names the port already, log entry 25). -/
def Obligations.ScanIrSelectsChain : Prop :=
  ∀ (s : State) (port : PortKind) (ins rest : List Bool), scanReady s = true → ins.length = s.cfg.scanIrLen →
    s.wire.answers = ins ++ rest →
    ∃ t, exec (.scanIr port) s = .next t ∧
      t.ses = { s.ses with irState := irOf port } ∧
      t.wire.trace =
        s.wire.trace ++ scans s.ses.half (bitsLsbFirst (scanIrCode s.cfg port) s.cfg.scanIrLen) ins ∧
      t.wire.answers = rest ∧ t.pin.dioOE = true ∧ t.pin.clkOE = true ∧ t.pin.clkO = false ∧
      t.queue = s.queue ∧ t.rspBuf = s.rspBuf ∧ t.host = s.host ∧ t.cfg = s.cfg

/-- SCAN.DR: 35 X events, RnW, A2, A3 and 32 data bits out, zeros for a read; a read takes incoming bits 3 to 34 into
W.RDATA (30 R101, 41 R163, R164; that the field runs as an instruction of its own is the model's choice, log entry 8, so
is that it runs whatever S.IR_STATE holds, log entry 26, and that zeros go out whatever data a read word holds is log
entry 21). -/
def Obligations.ScanDrShiftsWord : Prop :=
  ∀ (s : State) (rnw a2 a3 : Bool) (data v : Word) (low rest : List Bool), scanReady s = true → low.length = 3 →
    s.wire.answers = low ++ bitsLsbFirst v 32 ++ rest →
    ∃ t, exec (.scanDr rnw a2 a3 data) s = .next t ∧
      t.wire.trace =
        s.wire.trace ++
          scans s.ses.half ([rnw, a2, a3] ++ bitsLsbFirst (if rnw then 0#32 else data) 32)
            (low ++ bitsLsbFirst v 32) ∧
      t.work.rdata = (if rnw then v else s.work.rdata) ∧ t.wire.answers = rest ∧ t.pin = drivenLow ∧
      t.ses = s.ses ∧ t.queue = s.queue ∧ t.rspBuf = s.rspBuf ∧ t.host = s.host ∧ t.cfg = s.cfg

/-- The wire fields compose to the transaction: a request, an OK acknowledgement and a data field, run one after
the other, put on the wire exactly what a write transaction does, and for a read exactly what a read transaction does up
to its closing turnaround (41 R142, R144, R145, R153; running them one by one is the model's, log entry 8, for a write the
word's own parity bit is ignored, log entry 20, and that W.ST holds the outcome is log entry 28). -/
def Obligations.WireFieldsComposeTransaction : Prop :=
  ∀ (s : State) (sel : Sel) (v : Word) (par : Bool), swdReady s = true → s.pin.dioOE = true →
    ∃ t1 t2 t3, exec (.swdReq sel) s = .next t1 ∧ exec (.swdAck 1#3) t1 = .next t2 ∧
      exec (.swdData v par) t2 = .next t3 ∧
      (selIsRead sel = false →
        t3.wire.trace = s.wire.trace ++ writeTrace s.cfg s.ses.half sel v ∧ t3.pin = drivenLow) ∧
      (selIsRead sel = true →
        t3.wire.trace ++ turns s.cfg s.ses.half =
            s.wire.trace ++ readTrace s.cfg s.ses.half sel (bitsLsbFirst v 32) par ∧
          t3.work.rdata = v ∧ t3.work.st = (readStatus v par).code)

/-- A wire field outside its discipline, or with the clock not driven low, stops by the fault codecPrecondition (40 R126;
the fault is the model's, log entry 9). -/
def Obligations.WireFieldOutsideDisciplineStops : Prop :=
  ∀ s : State,
    (swdReady s = false →
        ∀ sel ack v par, exec (.swdReq sel) s = .fault .codecPrecondition ∧
          exec (.swdAck ack) s = .fault .codecPrecondition ∧
          exec (.swdData v par) s = .fault .codecPrecondition) ∧
      (scanReady s = false →
        ∀ port rnw a2 a3 data, exec (.scanIr port) s = .fault .codecPrecondition ∧
          exec (.scanDr rnw a2 a3 data) s = .fault .codecPrecondition)

/-! ## Timing -/

/-- One cycle of half-period h: 2h ticks, the clock low for the first h and high for the rest, the data line as the event
says throughout; an S or X cycle samples exactly once, on the last tick of the low phase, any other cycle never (40 R112,
R120, R124, R125). -/
def Obligations.CycleTimeline : Prop :=
  ∀ (e : WireEvent) (h : Nat), 1 ≤ h → eventHalf e = some h →
    (timeline e).length = 2 * h ∧ eventTicks e = 2 * h ∧
      ∀ (k : Nat) (tick : Tick), (timeline e)[k]? = some tick →
        (tick.clk = true ↔ h ≤ k) ∧ (tick.sampled = true ↔ isSample e = true ∧ k = h - 1) ∧
          ((∃ b, e = .drive b h ∧ tick.dio = some b) ∨ (∃ o i, e = .scan o i h ∧ tick.dio = some o) ∨
            (tick.dio = none ∧ ((∃ b, e = .sample b h) ∨ e = .turn h)))

/-- How long the transactions last: 2h(44 + 2 TRN) ticks for an OK one, 2h(11 + 2 TRN) for WAIT, FAULT and NO_ACK, gaps
zero (41 R153, 70 R303; the gaps are log entry 12). -/
def Obligations.TransactionDurations : Prop :=
  ∀ (c : Config) (h : Nat) (sel : Sel) (v : Word) (par : Bool) (ack : BitVec 3),
    traceTicks (readTrace c h sel (bitsLsbFirst v 32) par) = 2 * h * (44 + 2 * c.trn) ∧
      traceTicks (writeTrace c h sel v) = 2 * h * (44 + 2 * c.trn) ∧
      traceTicks (refusedTrace c h sel (bitsLsbFirst ack 3)) = 2 * h * (11 + 2 * c.trn)

/-- Every clock cycle a step puts on the wire has the half-period S.HALF had before it, never below HALF_MIN: the wire
clock is never faster than the rate set (40 R115, 70 R304 a). -/
def Obligations.EveryCycleAtTheSetRate : Prop :=
  ∀ s t : State, Inv s → s.host.rstCut = none → step s = .next t →
    ∃ evs, t.wire.trace = s.wire.trace ++ evs ∧
      ∀ e ∈ evs, ∀ h, eventHalf e = some h → h = s.ses.half ∧ s.cfg.halfMin ≤ h

/-! ## The whole machine -/

/-- HEADLINE. Turnaround correctness: every step keeps the rule that a run of D or X events and a run of S events are
separated by exactly TRN turnaround cycles, and that turnaround cycles stand nowhere else (40 R127; 70 R298). -/
def Obligations.StepKeepsTurnaroundRule : Prop :=
  ∀ s t : State, Inv s → s.host.rstCut = none → TurnaroundOk s.cfg.trn s.wire.trace → step s = .next t →
    TurnaroundOk t.cfg.trn t.wire.trace

/-- Who writes what, over the rows of the access table: S.HALF only CLOCK; S.RST only RESET; S.AOE only CONNECT; S.DISC
only CONNECT and ABORT; S.ERR_CNT only CONNECT, ABORT, XFER and QEXEC; S.OVR_CNT only CONNECT, ABORT and QPUSH; S.DSTATE
only CONNECT, ABORT, QPUSH and QEXEC; S.IR_STATE only CONNECT, ABORT, XFER, QEXEC and the wire field SCAN.IR; the queue
only QPUSH, QEXEC and ABORT; the clock and data pins only CONNECT, ABORT, XFER, QEXEC and the wire fields; PIN.RST_O only
RESET; the trace only RESET, the transfers and the wire fields; no instruction writes the configuration or the host
channel (10 R46, with R21 to R29; the wire fields as instructions are log entry 8). -/
def Obligations.OnlyTheseCommandsWrite : Prop :=
  ∀ (i : Instr) (s t : State), exec i s = .next t →
    let connect := ∃ d f, i = .connect d f
    let reset := ∃ l d, i = .reset l d
    let xfer := (∃ l, i = .xferR l) ∨ ∃ l v, i = .xferW l v
    let qpush := (∃ l, i = .qpushR l) ∨ ∃ l v, i = .qpushW l v
    (t.ses.half ≠ s.ses.half → ∃ f, i = .clock f) ∧
      (t.ses.rst ≠ s.ses.rst → reset) ∧
      (t.ses.aoe ≠ s.ses.aoe → connect) ∧
      (t.ses.disc ≠ s.ses.disc → i = .abort ∨ connect) ∧
      (t.ses.errCnt ≠ s.ses.errCnt → i = .abort ∨ connect ∨ xfer ∨ i = .qexec) ∧
      (t.ses.ovrCnt ≠ s.ses.ovrCnt → i = .abort ∨ connect ∨ qpush) ∧
      (t.ses.dstate ≠ s.ses.dstate → i = .abort ∨ connect ∨ qpush ∨ i = .qexec) ∧
      (t.ses.irState ≠ s.ses.irState → i = .abort ∨ connect ∨ xfer ∨ i = .qexec ∨ ∃ p, i = .scanIr p) ∧
      (t.queue ≠ s.queue → i = .abort ∨ qpush ∨ i = .qexec) ∧
      (t.pin ≠ s.pin → i = .abort ∨ connect ∨ xfer ∨ i = .qexec ∨ i.isCommand = false) ∧
      (rstO t ≠ rstO s → reset) ∧
      (t.wire ≠ s.wire → reset ∨ xfer ∨ i = .qexec ∨ i.isCommand = false) ∧
      t.cfg = s.cfg ∧ t.host = s.host

/-- The counters are sticky: but for CONNECT and ABORT no instruction lowers S.ERR_CNT or S.OVR_CNT, so that a nonzero
counter stays nonzero (10 R26, R28, R33; 70 R282). -/
def Obligations.CountersAreSticky : Prop :=
  ∀ (i : Instr) (s t : State), i ≠ .abort → (∀ d f, i ≠ .connect d f) → exec i s = .next t →
    s.ses.errCnt.toNat ≤ t.ses.errCnt.toNat ∧ s.ses.ovrCnt.toNat ≤ t.ses.ovrCnt.toNat ∧
      (errFlag s = true → errFlag t = true) ∧ (ovrFlag s = true → ovrFlag t = true)

/-- A command that answers BAD_COMMAND or BAD_STATE has changed no state, driven no pin and put nothing on the wire (42
R180, 30 R90, 60 R259). -/
def Obligations.RefusedCommandDoesNothing : Prop :=
  ∀ (i : Instr) (s t : State), i.isCommand = true → exec i s = .next t → refusedResponse t.rspBuf = true → Quiet s t

/-- The transition table: from a state of the invariant, a command whose fields are illegal, or that the table refuses in
the dispatcher state, is refused (BAD_COMMAND first) and the state stays; any other command is not refused and the
dispatcher state becomes the table's (60 R260, R262). -/
def Obligations.TransitionTable : Prop :=
  ∀ (i : Instr) (s : State), Inv s → i.isCommand = true →
    ∃ t, exec i s = .next t ∧
      (legalFields s.cfg i = false → t.rspBuf.getD 1 0#8 = 0x07#8 ∧ t.ses.dstate = s.ses.dstate) ∧
      (legalFields s.cfg i = true → tableRefuses s.ses.dstate i = true →
        t.rspBuf.getD 1 0#8 = 0x09#8 ∧ t.ses.dstate = s.ses.dstate) ∧
      (legalFields s.cfg i = true → tableRefuses s.ses.dstate i = false →
        refusedResponse t.rspBuf = false ∧ t.ses.dstate = stateAfter s.ses.dstate i)

/-- The target cannot reach what does not touch the wire: for INFO, CONNECT, CLOCK, RESET, QPUSH and ABORT the response,
the Session State, the queue and the pins are the same whatever the target's answers are (20 R72, 42, 43 R217). -/
def Obligations.TargetCannotReachSession : Prop :=
  ∀ (i : Instr) (s t : State) (answers : List Bool) (drawn : Nat),
    i.isCommand = true → (∀ l, i ≠ .xferR l) → (∀ l v, i ≠ .xferW l v) → i ≠ .qexec → exec i s = .next t →
    ∃ u, exec i (s.setWire { s.wire with answers := answers, drawn := drawn }) = .next u ∧ u.rspBuf = t.rspBuf ∧
      u.ses = t.ses ∧ u.queue = t.queue ∧ u.pin = t.pin ∧ u.wire.trace = t.wire.trace
end

