-- ==== Sys2Proof/Laws/State.lean ====
section
/-!
SUPPORT. The small lemmas of the state: one per field per setter, true by rfl.
-/

namespace Sys2Proof.Machine

open Sys2Proof

section

variable (s : State) (v : Session)

@[simp] theorem State.setSes_cfg : (s.setSes v).cfg = s.cfg := rfl
@[simp] theorem State.setSes_ses : (s.setSes v).ses = v := rfl
@[simp] theorem State.setSes_queue : (s.setSes v).queue = s.queue := rfl
@[simp] theorem State.setSes_pin : (s.setSes v).pin = s.pin := rfl
@[simp] theorem State.setSes_work : (s.setSes v).work = s.work := rfl
@[simp] theorem State.setSes_timers : (s.setSes v).timers = s.timers := rfl
@[simp] theorem State.setSes_rspBuf : (s.setSes v).rspBuf = s.rspBuf := rfl
@[simp] theorem State.setSes_host : (s.setSes v).host = s.host := rfl
@[simp] theorem State.setSes_wire : (s.setSes v).wire = s.wire := rfl
@[simp] theorem State.setSes_free : (s.setSes v).free = s.free := rfl

end

section

variable (s : State) (v : Queue)

@[simp] theorem State.setQueue_cfg : (s.setQueue v).cfg = s.cfg := rfl
@[simp] theorem State.setQueue_ses : (s.setQueue v).ses = s.ses := rfl
@[simp] theorem State.setQueue_queue : (s.setQueue v).queue = v := rfl
@[simp] theorem State.setQueue_pin : (s.setQueue v).pin = s.pin := rfl
@[simp] theorem State.setQueue_work : (s.setQueue v).work = s.work := rfl
@[simp] theorem State.setQueue_timers : (s.setQueue v).timers = s.timers := rfl
@[simp] theorem State.setQueue_rspBuf : (s.setQueue v).rspBuf = s.rspBuf := rfl
@[simp] theorem State.setQueue_host : (s.setQueue v).host = s.host := rfl
@[simp] theorem State.setQueue_wire : (s.setQueue v).wire = s.wire := rfl
@[simp] theorem State.setQueue_free : (s.setQueue v).free = s.free := rfl

end

section

variable (s : State) (v : Pins)

@[simp] theorem State.setPin_cfg : (s.setPin v).cfg = s.cfg := rfl
@[simp] theorem State.setPin_ses : (s.setPin v).ses = s.ses := rfl
@[simp] theorem State.setPin_queue : (s.setPin v).queue = s.queue := rfl
@[simp] theorem State.setPin_pin : (s.setPin v).pin = v := rfl
@[simp] theorem State.setPin_work : (s.setPin v).work = s.work := rfl
@[simp] theorem State.setPin_timers : (s.setPin v).timers = s.timers := rfl
@[simp] theorem State.setPin_rspBuf : (s.setPin v).rspBuf = s.rspBuf := rfl
@[simp] theorem State.setPin_host : (s.setPin v).host = s.host := rfl
@[simp] theorem State.setPin_wire : (s.setPin v).wire = s.wire := rfl
@[simp] theorem State.setPin_free : (s.setPin v).free = s.free := rfl

end

section

variable (s : State) (v : Work)

@[simp] theorem State.setWork_cfg : (s.setWork v).cfg = s.cfg := rfl
@[simp] theorem State.setWork_ses : (s.setWork v).ses = s.ses := rfl
@[simp] theorem State.setWork_queue : (s.setWork v).queue = s.queue := rfl
@[simp] theorem State.setWork_pin : (s.setWork v).pin = s.pin := rfl
@[simp] theorem State.setWork_work : (s.setWork v).work = v := rfl
@[simp] theorem State.setWork_timers : (s.setWork v).timers = s.timers := rfl
@[simp] theorem State.setWork_rspBuf : (s.setWork v).rspBuf = s.rspBuf := rfl
@[simp] theorem State.setWork_host : (s.setWork v).host = s.host := rfl
@[simp] theorem State.setWork_wire : (s.setWork v).wire = s.wire := rfl
@[simp] theorem State.setWork_free : (s.setWork v).free = s.free := rfl

end

section

variable (s : State) (v : Timers)

@[simp] theorem State.setTimers_cfg : (s.setTimers v).cfg = s.cfg := rfl
@[simp] theorem State.setTimers_ses : (s.setTimers v).ses = s.ses := rfl
@[simp] theorem State.setTimers_queue : (s.setTimers v).queue = s.queue := rfl
@[simp] theorem State.setTimers_pin : (s.setTimers v).pin = s.pin := rfl
@[simp] theorem State.setTimers_work : (s.setTimers v).work = s.work := rfl
@[simp] theorem State.setTimers_timers : (s.setTimers v).timers = v := rfl
@[simp] theorem State.setTimers_rspBuf : (s.setTimers v).rspBuf = s.rspBuf := rfl
@[simp] theorem State.setTimers_host : (s.setTimers v).host = s.host := rfl
@[simp] theorem State.setTimers_wire : (s.setTimers v).wire = s.wire := rfl
@[simp] theorem State.setTimers_free : (s.setTimers v).free = s.free := rfl

end

section

variable (s : State) (v : Packet)

@[simp] theorem State.setRsp_cfg : (s.setRsp v).cfg = s.cfg := rfl
@[simp] theorem State.setRsp_ses : (s.setRsp v).ses = s.ses := rfl
@[simp] theorem State.setRsp_queue : (s.setRsp v).queue = s.queue := rfl
@[simp] theorem State.setRsp_pin : (s.setRsp v).pin = s.pin := rfl
@[simp] theorem State.setRsp_work : (s.setRsp v).work = s.work := rfl
@[simp] theorem State.setRsp_timers : (s.setRsp v).timers = s.timers := rfl
@[simp] theorem State.setRsp_rspBuf : (s.setRsp v).rspBuf = v := rfl
@[simp] theorem State.setRsp_host : (s.setRsp v).host = s.host := rfl
@[simp] theorem State.setRsp_wire : (s.setRsp v).wire = s.wire := rfl
@[simp] theorem State.setRsp_free : (s.setRsp v).free = s.free := rfl

end

section

variable (s : State) (v : HostPort)

@[simp] theorem State.setHost_cfg : (s.setHost v).cfg = s.cfg := rfl
@[simp] theorem State.setHost_ses : (s.setHost v).ses = s.ses := rfl
@[simp] theorem State.setHost_queue : (s.setHost v).queue = s.queue := rfl
@[simp] theorem State.setHost_pin : (s.setHost v).pin = s.pin := rfl
@[simp] theorem State.setHost_work : (s.setHost v).work = s.work := rfl
@[simp] theorem State.setHost_timers : (s.setHost v).timers = s.timers := rfl
@[simp] theorem State.setHost_rspBuf : (s.setHost v).rspBuf = s.rspBuf := rfl
@[simp] theorem State.setHost_host : (s.setHost v).host = v := rfl
@[simp] theorem State.setHost_wire : (s.setHost v).wire = s.wire := rfl
@[simp] theorem State.setHost_free : (s.setHost v).free = s.free := rfl

end

section

variable (s : State) (v : Wire)

@[simp] theorem State.setWire_cfg : (s.setWire v).cfg = s.cfg := rfl
@[simp] theorem State.setWire_ses : (s.setWire v).ses = s.ses := rfl
@[simp] theorem State.setWire_queue : (s.setWire v).queue = s.queue := rfl
@[simp] theorem State.setWire_pin : (s.setWire v).pin = s.pin := rfl
@[simp] theorem State.setWire_work : (s.setWire v).work = s.work := rfl
@[simp] theorem State.setWire_timers : (s.setWire v).timers = s.timers := rfl
@[simp] theorem State.setWire_rspBuf : (s.setWire v).rspBuf = s.rspBuf := rfl
@[simp] theorem State.setWire_host : (s.setWire v).host = s.host := rfl
@[simp] theorem State.setWire_wire : (s.setWire v).wire = v := rfl
@[simp] theorem State.setWire_free : (s.setWire v).free = s.free := rfl

end

section

variable (s : State) (v : Nat)

@[simp] theorem State.setFree_cfg : (s.setFree v).cfg = s.cfg := rfl
@[simp] theorem State.setFree_ses : (s.setFree v).ses = s.ses := rfl
@[simp] theorem State.setFree_queue : (s.setFree v).queue = s.queue := rfl
@[simp] theorem State.setFree_pin : (s.setFree v).pin = s.pin := rfl
@[simp] theorem State.setFree_work : (s.setFree v).work = s.work := rfl
@[simp] theorem State.setFree_timers : (s.setFree v).timers = s.timers := rfl
@[simp] theorem State.setFree_rspBuf : (s.setFree v).rspBuf = s.rspBuf := rfl
@[simp] theorem State.setFree_host : (s.setFree v).host = s.host := rfl
@[simp] theorem State.setFree_wire : (s.setFree v).wire = s.wire := rfl
@[simp] theorem State.setFree_free : (s.setFree v).free = v := rfl

end

end Sys2Proof.Machine
end

