-- ==== Sys2Proof/Laws/Ops.lean ====
section
/-!
SUPPORT. What each shared operation of Machine/Ops.lean does, field by field.
-/

namespace Sys2Proof.Machine

open Sys2Proof

/-! setOp -/

@[simp] theorem setOp_cfg (op : Byte) (s : State) :
    (setOp op s).cfg = s.cfg := by
  simp [setOp]

@[simp] theorem setOp_ses (op : Byte) (s : State) :
    (setOp op s).ses = s.ses := by
  simp [setOp]

@[simp] theorem setOp_queue (op : Byte) (s : State) :
    (setOp op s).queue = s.queue := by
  simp [setOp]

@[simp] theorem setOp_pin (op : Byte) (s : State) :
    (setOp op s).pin = s.pin := by
  simp [setOp]

@[simp] theorem setOp_work (op : Byte) (s : State) :
    (setOp op s).work = { s.work with op := op } := by
  simp [setOp]

@[simp] theorem setOp_timers (op : Byte) (s : State) :
    (setOp op s).timers = s.timers := by
  simp [setOp]

@[simp] theorem setOp_rspBuf (op : Byte) (s : State) :
    (setOp op s).rspBuf = s.rspBuf := by
  simp [setOp]

@[simp] theorem setOp_host (op : Byte) (s : State) :
    (setOp op s).host = s.host := by
  simp [setOp]

@[simp] theorem setOp_wire (op : Byte) (s : State) :
    (setOp op s).wire = s.wire := by
  simp [setOp]

@[simp] theorem setOp_free (op : Byte) (s : State) :
    (setOp op s).free = s.free := by
  simp [setOp]

/-! dropShift -/

@[simp] theorem dropShift_cfg (s : State) :
    (dropShift s).cfg = s.cfg := by
  simp [dropShift]

@[simp] theorem dropShift_ses (s : State) :
    (dropShift s).ses = s.ses := by
  simp [dropShift]

@[simp] theorem dropShift_queue (s : State) :
    (dropShift s).queue = s.queue := by
  simp [dropShift]

@[simp] theorem dropShift_pin (s : State) :
    (dropShift s).pin = s.pin := by
  simp [dropShift]

@[simp] theorem dropShift_work (s : State) :
    (dropShift s).work = { s.work with shift := Config.free 35 s.free } := by
  simp [dropShift]

@[simp] theorem dropShift_timers (s : State) :
    (dropShift s).timers = s.timers := by
  simp [dropShift]

@[simp] theorem dropShift_rspBuf (s : State) :
    (dropShift s).rspBuf = s.rspBuf := by
  simp [dropShift]

@[simp] theorem dropShift_host (s : State) :
    (dropShift s).host = s.host := by
  simp [dropShift]

@[simp] theorem dropShift_wire (s : State) :
    (dropShift s).wire = s.wire := by
  simp [dropShift]

@[simp] theorem dropShift_free (s : State) :
    (dropShift s).free = s.free + 1 := by
  simp [dropShift]

/-! dropWork -/

@[simp] theorem dropWork_cfg (s : State) :
    (dropWork s).cfg = s.cfg := by
  simp [dropWork]

@[simp] theorem dropWork_ses (s : State) :
    (dropWork s).ses = s.ses := by
  simp [dropWork]

@[simp] theorem dropWork_queue (s : State) :
    (dropWork s).queue = s.queue := by
  simp [dropWork]

@[simp] theorem dropWork_pin (s : State) :
    (dropWork s).pin = s.pin := by
  simp [dropWork]

@[simp] theorem dropWork_work (s : State) :
    (dropWork s).work = freeWork s.cfg s.free := by
  simp [dropWork]

@[simp] theorem dropWork_timers (s : State) :
    (dropWork s).timers = freeTimers s.cfg (s.free + 17) := by
  simp [dropWork]

@[simp] theorem dropWork_rspBuf (s : State) :
    (dropWork s).rspBuf = s.rspBuf := by
  simp [dropWork]

@[simp] theorem dropWork_host (s : State) :
    (dropWork s).host = s.host := by
  simp [dropWork]

@[simp] theorem dropWork_wire (s : State) :
    (dropWork s).wire = s.wire := by
  simp [dropWork]

@[simp] theorem dropWork_free (s : State) :
    (dropWork s).free = s.free + 19 := by
  simp [dropWork]

/-! respond -/

@[simp] theorem respond_cfg (bytes : Packet) (s : State) :
    (respond bytes s).cfg = s.cfg := by
  simp [respond]

@[simp] theorem respond_ses (bytes : Packet) (s : State) :
    (respond bytes s).ses = s.ses := by
  simp [respond]

@[simp] theorem respond_queue (bytes : Packet) (s : State) :
    (respond bytes s).queue = s.queue := by
  simp [respond]

@[simp] theorem respond_pin (bytes : Packet) (s : State) :
    (respond bytes s).pin = s.pin := by
  simp [respond]

@[simp] theorem respond_work (bytes : Packet) (s : State) :
    (respond bytes s).work = freeWork s.cfg s.free := by
  simp [respond]

@[simp] theorem respond_timers (bytes : Packet) (s : State) :
    (respond bytes s).timers = freeTimers s.cfg (s.free + 17) := by
  simp [respond]

@[simp] theorem respond_rspBuf (bytes : Packet) (s : State) :
    (respond bytes s).rspBuf = bytes := by
  simp [respond]

@[simp] theorem respond_host (bytes : Packet) (s : State) :
    (respond bytes s).host = s.host := by
  simp [respond]

@[simp] theorem respond_wire (bytes : Packet) (s : State) :
    (respond bytes s).wire = s.wire := by
  simp [respond]

@[simp] theorem respond_free (bytes : Packet) (s : State) :
    (respond bytes s).free = s.free + 19 := by
  simp [respond]

/-! errorResponse -/

@[simp] theorem errorResponse_cfg (st : Status) (s : State) :
    (errorResponse st s).cfg = s.cfg := by
  simp [errorResponse]

@[simp] theorem errorResponse_ses (st : Status) (s : State) :
    (errorResponse st s).ses = s.ses := by
  simp [errorResponse]

@[simp] theorem errorResponse_queue (st : Status) (s : State) :
    (errorResponse st s).queue = s.queue := by
  simp [errorResponse]

@[simp] theorem errorResponse_pin (st : Status) (s : State) :
    (errorResponse st s).pin = s.pin := by
  simp [errorResponse]

@[simp] theorem errorResponse_work (st : Status) (s : State) :
    (errorResponse st s).work = freeWork s.cfg s.free := by
  simp [errorResponse]

@[simp] theorem errorResponse_timers (st : Status) (s : State) :
    (errorResponse st s).timers = freeTimers s.cfg (s.free + 17) := by
  simp [errorResponse]

@[simp] theorem errorResponse_rspBuf (st : Status) (s : State) :
    (errorResponse st s).rspBuf = [s.work.op, st.code] := by
  simp [errorResponse]

@[simp] theorem errorResponse_host (st : Status) (s : State) :
    (errorResponse st s).host = s.host := by
  simp [errorResponse]

@[simp] theorem errorResponse_wire (st : Status) (s : State) :
    (errorResponse st s).wire = s.wire := by
  simp [errorResponse]

@[simp] theorem errorResponse_free (st : Status) (s : State) :
    (errorResponse st s).free = s.free + 19 := by
  simp [errorResponse]

/-! setDState -/

@[simp] theorem setDState_cfg (v : DState) (s : State) :
    (setDState v s).cfg = s.cfg := by
  simp [setDState]

@[simp] theorem setDState_ses (v : DState) (s : State) :
    (setDState v s).ses = { s.ses with dstate := v } := by
  simp [setDState]

@[simp] theorem setDState_queue (v : DState) (s : State) :
    (setDState v s).queue = s.queue := by
  simp [setDState]

@[simp] theorem setDState_pin (v : DState) (s : State) :
    (setDState v s).pin = s.pin := by
  simp [setDState]

@[simp] theorem setDState_work (v : DState) (s : State) :
    (setDState v s).work = s.work := by
  simp [setDState]

@[simp] theorem setDState_timers (v : DState) (s : State) :
    (setDState v s).timers = s.timers := by
  simp [setDState]

@[simp] theorem setDState_rspBuf (v : DState) (s : State) :
    (setDState v s).rspBuf = s.rspBuf := by
  simp [setDState]

@[simp] theorem setDState_host (v : DState) (s : State) :
    (setDState v s).host = s.host := by
  simp [setDState]

@[simp] theorem setDState_wire (v : DState) (s : State) :
    (setDState v s).wire = s.wire := by
  simp [setDState]

@[simp] theorem setDState_free (v : DState) (s : State) :
    (setDState v s).free = s.free := by
  simp [setDState]

/-! setHalf -/

@[simp] theorem setHalf_cfg (h : Nat) (s : State) :
    (setHalf h s).cfg = s.cfg := by
  simp [setHalf]

@[simp] theorem setHalf_ses (h : Nat) (s : State) :
    (setHalf h s).ses = { s.ses with half := h } := by
  simp [setHalf]

@[simp] theorem setHalf_queue (h : Nat) (s : State) :
    (setHalf h s).queue = s.queue := by
  simp [setHalf]

@[simp] theorem setHalf_pin (h : Nat) (s : State) :
    (setHalf h s).pin = s.pin := by
  simp [setHalf]

@[simp] theorem setHalf_work (h : Nat) (s : State) :
    (setHalf h s).work = s.work := by
  simp [setHalf]

@[simp] theorem setHalf_timers (h : Nat) (s : State) :
    (setHalf h s).timers = s.timers := by
  simp [setHalf]

@[simp] theorem setHalf_rspBuf (h : Nat) (s : State) :
    (setHalf h s).rspBuf = s.rspBuf := by
  simp [setHalf]

@[simp] theorem setHalf_host (h : Nat) (s : State) :
    (setHalf h s).host = s.host := by
  simp [setHalf]

@[simp] theorem setHalf_wire (h : Nat) (s : State) :
    (setHalf h s).wire = s.wire := by
  simp [setHalf]

@[simp] theorem setHalf_free (h : Nat) (s : State) :
    (setHalf h s).free = s.free := by
  simp [setHalf]

/-! setIrState -/

@[simp] theorem setIrState_cfg (v : IrState) (s : State) :
    (setIrState v s).cfg = s.cfg := by
  simp [setIrState]

@[simp] theorem setIrState_ses (v : IrState) (s : State) :
    (setIrState v s).ses = { s.ses with irState := v } := by
  simp [setIrState]

@[simp] theorem setIrState_queue (v : IrState) (s : State) :
    (setIrState v s).queue = s.queue := by
  simp [setIrState]

@[simp] theorem setIrState_pin (v : IrState) (s : State) :
    (setIrState v s).pin = s.pin := by
  simp [setIrState]

@[simp] theorem setIrState_work (v : IrState) (s : State) :
    (setIrState v s).work = s.work := by
  simp [setIrState]

@[simp] theorem setIrState_timers (v : IrState) (s : State) :
    (setIrState v s).timers = s.timers := by
  simp [setIrState]

@[simp] theorem setIrState_rspBuf (v : IrState) (s : State) :
    (setIrState v s).rspBuf = s.rspBuf := by
  simp [setIrState]

@[simp] theorem setIrState_host (v : IrState) (s : State) :
    (setIrState v s).host = s.host := by
  simp [setIrState]

@[simp] theorem setIrState_wire (v : IrState) (s : State) :
    (setIrState v s).wire = s.wire := by
  simp [setIrState]

@[simp] theorem setIrState_free (v : IrState) (s : State) :
    (setIrState v s).free = s.free := by
  simp [setIrState]

/-! setAoe -/

@[simp] theorem setAoe_cfg (v : Bool) (s : State) :
    (setAoe v s).cfg = s.cfg := by
  simp [setAoe]

@[simp] theorem setAoe_ses (v : Bool) (s : State) :
    (setAoe v s).ses = { s.ses with aoe := v } := by
  simp [setAoe]

@[simp] theorem setAoe_queue (v : Bool) (s : State) :
    (setAoe v s).queue = s.queue := by
  simp [setAoe]

@[simp] theorem setAoe_pin (v : Bool) (s : State) :
    (setAoe v s).pin = s.pin := by
  simp [setAoe]

@[simp] theorem setAoe_work (v : Bool) (s : State) :
    (setAoe v s).work = s.work := by
  simp [setAoe]

@[simp] theorem setAoe_timers (v : Bool) (s : State) :
    (setAoe v s).timers = s.timers := by
  simp [setAoe]

@[simp] theorem setAoe_rspBuf (v : Bool) (s : State) :
    (setAoe v s).rspBuf = s.rspBuf := by
  simp [setAoe]

@[simp] theorem setAoe_host (v : Bool) (s : State) :
    (setAoe v s).host = s.host := by
  simp [setAoe]

@[simp] theorem setAoe_wire (v : Bool) (s : State) :
    (setAoe v s).wire = s.wire := by
  simp [setAoe]

@[simp] theorem setAoe_free (v : Bool) (s : State) :
    (setAoe v s).free = s.free := by
  simp [setAoe]

/-! clearSession -/

@[simp] theorem clearSession_cfg (s : State) :
    (clearSession s).cfg = s.cfg := by
  simp [clearSession]

@[simp] theorem clearSession_ses (s : State) :
    (clearSession s).ses = { s.ses with errCnt := 0#16, ovrCnt := 0#16, irState := .none } := by
  simp [clearSession]

@[simp] theorem clearSession_queue (s : State) :
    (clearSession s).queue = s.queue := by
  simp [clearSession]

@[simp] theorem clearSession_pin (s : State) :
    (clearSession s).pin = s.pin := by
  simp [clearSession]

@[simp] theorem clearSession_work (s : State) :
    (clearSession s).work = s.work := by
  simp [clearSession]

@[simp] theorem clearSession_timers (s : State) :
    (clearSession s).timers = s.timers := by
  simp [clearSession]

@[simp] theorem clearSession_rspBuf (s : State) :
    (clearSession s).rspBuf = s.rspBuf := by
  simp [clearSession]

@[simp] theorem clearSession_host (s : State) :
    (clearSession s).host = s.host := by
  simp [clearSession]

@[simp] theorem clearSession_wire (s : State) :
    (clearSession s).wire = s.wire := by
  simp [clearSession]

@[simp] theorem clearSession_free (s : State) :
    (clearSession s).free = s.free := by
  simp [clearSession]

/-! countOverrun -/

@[simp] theorem countOverrun_cfg (s : State) :
    (countOverrun s).cfg = s.cfg := by
  simp [countOverrun]

@[simp] theorem countOverrun_ses (s : State) :
    (countOverrun s).ses = { s.ses with ovrCnt := satInc s.ses.ovrCnt } := by
  simp [countOverrun]

@[simp] theorem countOverrun_queue (s : State) :
    (countOverrun s).queue = s.queue := by
  simp [countOverrun]

@[simp] theorem countOverrun_pin (s : State) :
    (countOverrun s).pin = s.pin := by
  simp [countOverrun]

@[simp] theorem countOverrun_work (s : State) :
    (countOverrun s).work = s.work := by
  simp [countOverrun]

@[simp] theorem countOverrun_timers (s : State) :
    (countOverrun s).timers = s.timers := by
  simp [countOverrun]

@[simp] theorem countOverrun_rspBuf (s : State) :
    (countOverrun s).rspBuf = s.rspBuf := by
  simp [countOverrun]

@[simp] theorem countOverrun_host (s : State) :
    (countOverrun s).host = s.host := by
  simp [countOverrun]

@[simp] theorem countOverrun_wire (s : State) :
    (countOverrun s).wire = s.wire := by
  simp [countOverrun]

@[simp] theorem countOverrun_free (s : State) :
    (countOverrun s).free = s.free := by
  simp [countOverrun]

/-! countError -/

@[simp] theorem countError_cfg (st : Status) (s : State) :
    (countError st s).cfg = s.cfg := by
  unfold countError; split <;> simp

@[simp] theorem countError_ses (st : Status) (s : State) :
    (countError st s).ses =
      { s.ses with errCnt := if st.counted then satInc s.ses.errCnt else s.ses.errCnt } := by
  unfold countError; split <;> simp_all

@[simp] theorem countError_queue (st : Status) (s : State) :
    (countError st s).queue = s.queue := by
  unfold countError; split <;> simp

@[simp] theorem countError_pin (st : Status) (s : State) :
    (countError st s).pin = s.pin := by
  unfold countError; split <;> simp

@[simp] theorem countError_work (st : Status) (s : State) :
    (countError st s).work = s.work := by
  unfold countError; split <;> simp

@[simp] theorem countError_timers (st : Status) (s : State) :
    (countError st s).timers = s.timers := by
  unfold countError; split <;> simp

@[simp] theorem countError_rspBuf (st : Status) (s : State) :
    (countError st s).rspBuf = s.rspBuf := by
  unfold countError; split <;> simp

@[simp] theorem countError_host (st : Status) (s : State) :
    (countError st s).host = s.host := by
  unfold countError; split <;> simp

@[simp] theorem countError_wire (st : Status) (s : State) :
    (countError st s).wire = s.wire := by
  unfold countError; split <;> simp

@[simp] theorem countError_free (st : Status) (s : State) :
    (countError st s).free = s.free := by
  unfold countError; split <;> simp

/-! emit -/

@[simp] theorem emit_cfg (evs : List WireEvent) (s : State) :
    (emit evs s).cfg = s.cfg := by
  simp [emit]

@[simp] theorem emit_ses (evs : List WireEvent) (s : State) :
    (emit evs s).ses = s.ses := by
  simp [emit]

@[simp] theorem emit_queue (evs : List WireEvent) (s : State) :
    (emit evs s).queue = s.queue := by
  simp [emit]

@[simp] theorem emit_pin (evs : List WireEvent) (s : State) :
    (emit evs s).pin = s.pin := by
  simp [emit]

@[simp] theorem emit_work (evs : List WireEvent) (s : State) :
    (emit evs s).work = s.work := by
  simp [emit]

@[simp] theorem emit_timers (evs : List WireEvent) (s : State) :
    (emit evs s).timers = s.timers := by
  simp [emit]

@[simp] theorem emit_rspBuf (evs : List WireEvent) (s : State) :
    (emit evs s).rspBuf = s.rspBuf := by
  simp [emit]

@[simp] theorem emit_host (evs : List WireEvent) (s : State) :
    (emit evs s).host = s.host := by
  simp [emit]

@[simp] theorem emit_wire (evs : List WireEvent) (s : State) :
    (emit evs s).wire = { s.wire with trace := s.wire.trace ++ evs } := by
  simp [emit]

@[simp] theorem emit_free (evs : List WireEvent) (s : State) :
    (emit evs s).free = s.free := by
  simp [emit]

/-! consume -/

@[simp] theorem consume_cfg (n : Nat) (s : State) :
    (consume n s).cfg = s.cfg := by
  simp [consume]

@[simp] theorem consume_ses (n : Nat) (s : State) :
    (consume n s).ses = s.ses := by
  simp [consume]

@[simp] theorem consume_queue (n : Nat) (s : State) :
    (consume n s).queue = s.queue := by
  simp [consume]

@[simp] theorem consume_pin (n : Nat) (s : State) :
    (consume n s).pin = s.pin := by
  simp [consume]

@[simp] theorem consume_work (n : Nat) (s : State) :
    (consume n s).work = s.work := by
  simp [consume]

@[simp] theorem consume_timers (n : Nat) (s : State) :
    (consume n s).timers = s.timers := by
  simp [consume]

@[simp] theorem consume_rspBuf (n : Nat) (s : State) :
    (consume n s).rspBuf = s.rspBuf := by
  simp [consume]

@[simp] theorem consume_host (n : Nat) (s : State) :
    (consume n s).host = s.host := by
  simp [consume]

@[simp] theorem consume_wire (n : Nat) (s : State) :
    (consume n s).wire = { s.wire with answers := s.wire.answers.drop n, drawn := s.wire.drawn + n } := by
  simp [consume]

@[simp] theorem consume_free (n : Nat) (s : State) :
    (consume n s).free = s.free := by
  simp [consume]

/-! feed -/

@[simp] theorem feed_cfg (bits : List Bool) (s : State) :
    (feed bits s).cfg = s.cfg := by
  simp [feed]

@[simp] theorem feed_ses (bits : List Bool) (s : State) :
    (feed bits s).ses = s.ses := by
  simp [feed]

@[simp] theorem feed_queue (bits : List Bool) (s : State) :
    (feed bits s).queue = s.queue := by
  simp [feed]

@[simp] theorem feed_pin (bits : List Bool) (s : State) :
    (feed bits s).pin = s.pin := by
  simp [feed]

@[simp] theorem feed_work (bits : List Bool) (s : State) :
    (feed bits s).work = s.work := by
  simp [feed]

@[simp] theorem feed_timers (bits : List Bool) (s : State) :
    (feed bits s).timers = s.timers := by
  simp [feed]

@[simp] theorem feed_rspBuf (bits : List Bool) (s : State) :
    (feed bits s).rspBuf = s.rspBuf := by
  simp [feed]

@[simp] theorem feed_host (bits : List Bool) (s : State) :
    (feed bits s).host = s.host := by
  simp [feed]

@[simp] theorem feed_wire (bits : List Bool) (s : State) :
    (feed bits s).wire = { s.wire with answers := bits ++ s.wire.answers } := by
  simp [feed]

@[simp] theorem feed_free (bits : List Bool) (s : State) :
    (feed bits s).free = s.free := by
  simp [feed]

/-! driveLines -/

@[simp] theorem driveLines_cfg (s : State) :
    (driveLines s).cfg = s.cfg := by
  simp [driveLines]

@[simp] theorem driveLines_ses (s : State) :
    (driveLines s).ses = s.ses := by
  simp [driveLines]

@[simp] theorem driveLines_queue (s : State) :
    (driveLines s).queue = s.queue := by
  simp [driveLines]

@[simp] theorem driveLines_pin (s : State) :
    (driveLines s).pin = { clkO := false, clkOE := true, dioO := false, dioOE := true } := by
  simp [driveLines]

@[simp] theorem driveLines_work (s : State) :
    (driveLines s).work = s.work := by
  simp [driveLines]

@[simp] theorem driveLines_timers (s : State) :
    (driveLines s).timers = s.timers := by
  simp [driveLines]

@[simp] theorem driveLines_rspBuf (s : State) :
    (driveLines s).rspBuf = s.rspBuf := by
  simp [driveLines]

@[simp] theorem driveLines_host (s : State) :
    (driveLines s).host = s.host := by
  simp [driveLines]

@[simp] theorem driveLines_wire (s : State) :
    (driveLines s).wire = s.wire := by
  simp [driveLines]

@[simp] theorem driveLines_free (s : State) :
    (driveLines s).free = s.free := by
  simp [driveLines]

/-! releaseLines -/

@[simp] theorem releaseLines_cfg (s : State) :
    (releaseLines s).cfg = s.cfg := by
  simp [releaseLines]

@[simp] theorem releaseLines_ses (s : State) :
    (releaseLines s).ses = s.ses := by
  simp [releaseLines]

@[simp] theorem releaseLines_queue (s : State) :
    (releaseLines s).queue = s.queue := by
  simp [releaseLines]

@[simp] theorem releaseLines_pin (s : State) :
    (releaseLines s).pin = { clkO := freeBit s.free, clkOE := false, dioO := freeBit (s.free + 1), dioOE := false } := by
  simp [releaseLines]

@[simp] theorem releaseLines_work (s : State) :
    (releaseLines s).work = s.work := by
  simp [releaseLines]

@[simp] theorem releaseLines_timers (s : State) :
    (releaseLines s).timers = s.timers := by
  simp [releaseLines]

@[simp] theorem releaseLines_rspBuf (s : State) :
    (releaseLines s).rspBuf = s.rspBuf := by
  simp [releaseLines]

@[simp] theorem releaseLines_host (s : State) :
    (releaseLines s).host = s.host := by
  simp [releaseLines]

@[simp] theorem releaseLines_wire (s : State) :
    (releaseLines s).wire = s.wire := by
  simp [releaseLines]

@[simp] theorem releaseLines_free (s : State) :
    (releaseLines s).free = s.free + 2 := by
  simp [releaseLines]

/-! setDio -/

@[simp] theorem setDio_cfg (b : Bool) (s : State) :
    (setDio b s).cfg = s.cfg := by
  simp [setDio]

@[simp] theorem setDio_ses (b : Bool) (s : State) :
    (setDio b s).ses = s.ses := by
  simp [setDio]

@[simp] theorem setDio_queue (b : Bool) (s : State) :
    (setDio b s).queue = s.queue := by
  simp [setDio]

@[simp] theorem setDio_pin (b : Bool) (s : State) :
    (setDio b s).pin = { s.pin with dioO := b } := by
  simp [setDio]

@[simp] theorem setDio_work (b : Bool) (s : State) :
    (setDio b s).work = s.work := by
  simp [setDio]

@[simp] theorem setDio_timers (b : Bool) (s : State) :
    (setDio b s).timers = s.timers := by
  simp [setDio]

@[simp] theorem setDio_rspBuf (b : Bool) (s : State) :
    (setDio b s).rspBuf = s.rspBuf := by
  simp [setDio]

@[simp] theorem setDio_host (b : Bool) (s : State) :
    (setDio b s).host = s.host := by
  simp [setDio]

@[simp] theorem setDio_wire (b : Bool) (s : State) :
    (setDio b s).wire = s.wire := by
  simp [setDio]

@[simp] theorem setDio_free (b : Bool) (s : State) :
    (setDio b s).free = s.free := by
  simp [setDio]

/-! selectDiscipline -/

@[simp] theorem selectDiscipline_cfg (d : Disc) (s : State) :
    (selectDiscipline d s).cfg = s.cfg := by
  simp [selectDiscipline]

@[simp] theorem selectDiscipline_ses (d : Disc) (s : State) :
    (selectDiscipline d s).ses = { s.ses with disc := d, dstate := .connected } := by
  simp [selectDiscipline]

@[simp] theorem selectDiscipline_queue (d : Disc) (s : State) :
    (selectDiscipline d s).queue = s.queue := by
  simp [selectDiscipline]

@[simp] theorem selectDiscipline_pin (d : Disc) (s : State) :
    (selectDiscipline d s).pin = { clkO := false, clkOE := true, dioO := false, dioOE := true } := by
  simp [selectDiscipline]

@[simp] theorem selectDiscipline_work (d : Disc) (s : State) :
    (selectDiscipline d s).work = s.work := by
  simp [selectDiscipline]

@[simp] theorem selectDiscipline_timers (d : Disc) (s : State) :
    (selectDiscipline d s).timers = s.timers := by
  simp [selectDiscipline]

@[simp] theorem selectDiscipline_rspBuf (d : Disc) (s : State) :
    (selectDiscipline d s).rspBuf = s.rspBuf := by
  simp [selectDiscipline]

@[simp] theorem selectDiscipline_host (d : Disc) (s : State) :
    (selectDiscipline d s).host = s.host := by
  simp [selectDiscipline]

@[simp] theorem selectDiscipline_wire (d : Disc) (s : State) :
    (selectDiscipline d s).wire = s.wire := by
  simp [selectDiscipline]

@[simp] theorem selectDiscipline_free (d : Disc) (s : State) :
    (selectDiscipline d s).free = s.free := by
  simp [selectDiscipline]

/-! setResetLine -/

@[simp] theorem setResetLine_cfg (l : Bool) (s : State) :
    (setResetLine l s).cfg = s.cfg := by
  simp [setResetLine]

@[simp] theorem setResetLine_ses (l : Bool) (s : State) :
    (setResetLine l s).ses = { s.ses with rst := l } := by
  simp [setResetLine]

@[simp] theorem setResetLine_queue (l : Bool) (s : State) :
    (setResetLine l s).queue = s.queue := by
  simp [setResetLine]

@[simp] theorem setResetLine_pin (l : Bool) (s : State) :
    (setResetLine l s).pin = s.pin := by
  simp [setResetLine]

@[simp] theorem setResetLine_work (l : Bool) (s : State) :
    (setResetLine l s).work = s.work := by
  simp [setResetLine]

@[simp] theorem setResetLine_timers (l : Bool) (s : State) :
    (setResetLine l s).timers = s.timers := by
  simp [setResetLine]

@[simp] theorem setResetLine_rspBuf (l : Bool) (s : State) :
    (setResetLine l s).rspBuf = s.rspBuf := by
  simp [setResetLine]

@[simp] theorem setResetLine_host (l : Bool) (s : State) :
    (setResetLine l s).host = s.host := by
  simp [setResetLine]

@[simp] theorem setResetLine_wire (l : Bool) (s : State) :
    (setResetLine l s).wire = { s.wire with trace := s.wire.trace ++ [.resetLine l] } := by
  simp [setResetLine]

@[simp] theorem setResetLine_free (l : Bool) (s : State) :
    (setResetLine l s).free = s.free := by
  simp [setResetLine]

/-! dropOldest -/

@[simp] theorem dropOldest_cfg (s : State) :
    (dropOldest s).cfg = s.cfg := by
  simp [dropOldest]

@[simp] theorem dropOldest_ses (s : State) :
    (dropOldest s).ses = s.ses := by
  simp [dropOldest]

@[simp] theorem dropOldest_queue (s : State) :
    (dropOldest s).queue = {
      slots := s.queue.slots.set s.queue.head (freeOp s.free)
      head := (s.queue.head + 1) % s.cfg.qcap
      count := s.queue.count - 1 } := by
  simp [dropOldest]

@[simp] theorem dropOldest_pin (s : State) :
    (dropOldest s).pin = s.pin := by
  simp [dropOldest]

@[simp] theorem dropOldest_work (s : State) :
    (dropOldest s).work = s.work := by
  simp [dropOldest]

@[simp] theorem dropOldest_timers (s : State) :
    (dropOldest s).timers = s.timers := by
  simp [dropOldest]

@[simp] theorem dropOldest_rspBuf (s : State) :
    (dropOldest s).rspBuf = s.rspBuf := by
  simp [dropOldest]

@[simp] theorem dropOldest_host (s : State) :
    (dropOldest s).host = s.host := by
  simp [dropOldest]

@[simp] theorem dropOldest_wire (s : State) :
    (dropOldest s).wire = s.wire := by
  simp [dropOldest]

@[simp] theorem dropOldest_free (s : State) :
    (dropOldest s).free = s.free + 4 := by
  simp [dropOldest]

/-! clearQueue -/

@[simp] theorem clearQueue_cfg (s : State) :
    (clearQueue s).cfg = s.cfg := by
  simp [clearQueue]

@[simp] theorem clearQueue_ses (s : State) :
    (clearQueue s).ses = s.ses := by
  simp [clearQueue]

@[simp] theorem clearQueue_queue (s : State) :
    (clearQueue s).queue = {
      slots := (List.range s.cfg.qcap).map fun i => freeOp (s.free + 4 * i)
      head := 0
      count := 0 } := by
  simp [clearQueue]

@[simp] theorem clearQueue_pin (s : State) :
    (clearQueue s).pin = s.pin := by
  simp [clearQueue]

@[simp] theorem clearQueue_work (s : State) :
    (clearQueue s).work = s.work := by
  simp [clearQueue]

@[simp] theorem clearQueue_timers (s : State) :
    (clearQueue s).timers = s.timers := by
  simp [clearQueue]

@[simp] theorem clearQueue_rspBuf (s : State) :
    (clearQueue s).rspBuf = s.rspBuf := by
  simp [clearQueue]

@[simp] theorem clearQueue_host (s : State) :
    (clearQueue s).host = s.host := by
  simp [clearQueue]

@[simp] theorem clearQueue_wire (s : State) :
    (clearQueue s).wire = s.wire := by
  simp [clearQueue]

@[simp] theorem clearQueue_free (s : State) :
    (clearQueue s).free = s.free + 4 * s.cfg.qcap := by
  simp [clearQueue]

/-! accept -/

@[simp] theorem accept_cfg (p : Packet) (rest : List Packet) (s : State) :
    (accept p rest s).cfg = s.cfg := by
  simp [accept]

@[simp] theorem accept_ses (p : Packet) (rest : List Packet) (s : State) :
    (accept p rest s).ses = s.ses := by
  simp [accept]

@[simp] theorem accept_queue (p : Packet) (rest : List Packet) (s : State) :
    (accept p rest s).queue = s.queue := by
  simp [accept]

@[simp] theorem accept_pin (p : Packet) (rest : List Packet) (s : State) :
    (accept p rest s).pin = s.pin := by
  simp [accept]

@[simp] theorem accept_work (p : Packet) (rest : List Packet) (s : State) :
    (accept p rest s).work = { s.work with op := p.headD 0x00#8 } := by
  simp [accept]

@[simp] theorem accept_timers (p : Packet) (rest : List Packet) (s : State) :
    (accept p rest s).timers = s.timers := by
  simp [accept]

@[simp] theorem accept_rspBuf (p : Packet) (rest : List Packet) (s : State) :
    (accept p rest s).rspBuf = s.rspBuf := by
  simp [accept]

@[simp] theorem accept_host (p : Packet) (rest : List Packet) (s : State) :
    (accept p rest s).host = { s.host with cmdIn := rest } := by
  simp [accept]

@[simp] theorem accept_wire (p : Packet) (rest : List Packet) (s : State) :
    (accept p rest s).wire = s.wire := by
  simp [accept]

@[simp] theorem accept_free (p : Packet) (rest : List Packet) (s : State) :
    (accept p rest s).free = s.free := by
  simp [accept]

/-! handOver -/

@[simp] theorem handOver_cfg (s : State) :
    (handOver s).cfg = s.cfg := by
  simp [handOver]

@[simp] theorem handOver_ses (s : State) :
    (handOver s).ses = s.ses := by
  simp [handOver]

@[simp] theorem handOver_queue (s : State) :
    (handOver s).queue = s.queue := by
  simp [handOver]

@[simp] theorem handOver_pin (s : State) :
    (handOver s).pin = s.pin := by
  simp [handOver]

@[simp] theorem handOver_work (s : State) :
    (handOver s).work = s.work := by
  simp [handOver]

@[simp] theorem handOver_timers (s : State) :
    (handOver s).timers = s.timers := by
  simp [handOver]

@[simp] theorem handOver_rspBuf (s : State) :
    (handOver s).rspBuf = [] := by
  simp [handOver]

@[simp] theorem handOver_host (s : State) :
    (handOver s).host = { s.host with rspOut := s.host.rspOut ++ [s.rspBuf] } := by
  simp [handOver]

@[simp] theorem handOver_wire (s : State) :
    (handOver s).wire = s.wire := by
  simp [handOver]

@[simp] theorem handOver_free (s : State) :
    (handOver s).free = s.free := by
  simp [handOver]

/-! hwReset -/

@[simp] theorem hwReset_cfg (s : State) :
    (hwReset s).cfg = s.cfg := by
  simp [hwReset, State.resetWith]

@[simp] theorem hwReset_ses (s : State) :
    (hwReset s).ses = Session.reset s.cfg := by
  simp [hwReset, State.resetWith]

@[simp] theorem hwReset_queue (s : State) :
    (hwReset s).queue = Queue.reset s.cfg := by
  simp [hwReset, State.resetWith]

@[simp] theorem hwReset_pin (s : State) :
    (hwReset s).pin = Pins.reset := by
  simp [hwReset, State.resetWith]

@[simp] theorem hwReset_work (s : State) :
    (hwReset s).work = Work.reset := by
  simp [hwReset, State.resetWith]

@[simp] theorem hwReset_timers (s : State) :
    (hwReset s).timers = Timers.reset := by
  simp [hwReset, State.resetWith]

@[simp] theorem hwReset_rspBuf (s : State) :
    (hwReset s).rspBuf = [] := by
  simp [hwReset, State.resetWith]

@[simp] theorem hwReset_host (s : State) :
    (hwReset s).host = s.host := by
  simp [hwReset, State.resetWith]

@[simp] theorem hwReset_wire (s : State) :
    (hwReset s).wire = { s.wire with field := none } := by
  simp [hwReset, State.resetWith]

@[simp] theorem hwReset_free (s : State) :
    (hwReset s).free = s.free := by
  simp [hwReset, State.resetWith]

/-! latch -/

@[simp] theorem latch_cfg (word : BitVec 35) (count : Nat) (s : State) :
    (latch word count s).cfg = s.cfg := by
  simp [latch]

@[simp] theorem latch_ses (word : BitVec 35) (count : Nat) (s : State) :
    (latch word count s).ses = s.ses := by
  simp [latch]

@[simp] theorem latch_queue (word : BitVec 35) (count : Nat) (s : State) :
    (latch word count s).queue = s.queue := by
  simp [latch]

@[simp] theorem latch_pin (word : BitVec 35) (count : Nat) (s : State) :
    (latch word count s).pin = s.pin := by
  simp [latch]

@[simp] theorem latch_work (word : BitVec 35) (count : Nat) (s : State) :
    (latch word count s).work = { s.work with h := s.ses.half, shift := word, bitcnt := BitVec.ofNat 6 count } := by
  simp [latch]

@[simp] theorem latch_timers (word : BitVec 35) (count : Nat) (s : State) :
    (latch word count s).timers = s.timers := by
  simp [latch]

@[simp] theorem latch_rspBuf (word : BitVec 35) (count : Nat) (s : State) :
    (latch word count s).rspBuf = s.rspBuf := by
  simp [latch]

@[simp] theorem latch_host (word : BitVec 35) (count : Nat) (s : State) :
    (latch word count s).host = s.host := by
  simp [latch]

@[simp] theorem latch_wire (word : BitVec 35) (count : Nat) (s : State) :
    (latch word count s).wire = s.wire := by
  simp [latch]

@[simp] theorem latch_free (word : BitVec 35) (count : Nat) (s : State) :
    (latch word count s).free = s.free := by
  simp [latch]

/-! endPrimitive -/

@[simp] theorem endPrimitive_cfg (s : State) :
    (endPrimitive s).cfg = s.cfg := by
  simp [endPrimitive]

@[simp] theorem endPrimitive_ses (s : State) :
    (endPrimitive s).ses = s.ses := by
  simp [endPrimitive]

@[simp] theorem endPrimitive_queue (s : State) :
    (endPrimitive s).queue = s.queue := by
  simp [endPrimitive]

@[simp] theorem endPrimitive_pin (s : State) :
    (endPrimitive s).pin = { s.pin with clkO := false } := by
  simp [endPrimitive]

@[simp] theorem endPrimitive_work (s : State) :
    (endPrimitive s).work = { s.work with bitcnt := 0#6 } := by
  simp [endPrimitive]

@[simp] theorem endPrimitive_timers (s : State) :
    (endPrimitive s).timers = { s.timers with phaseCnt := freeHalf s.cfg s.free } := by
  simp [endPrimitive]

@[simp] theorem endPrimitive_rspBuf (s : State) :
    (endPrimitive s).rspBuf = s.rspBuf := by
  simp [endPrimitive]

@[simp] theorem endPrimitive_host (s : State) :
    (endPrimitive s).host = s.host := by
  simp [endPrimitive]

@[simp] theorem endPrimitive_wire (s : State) :
    (endPrimitive s).wire = s.wire := by
  simp [endPrimitive]

@[simp] theorem endPrimitive_free (s : State) :
    (endPrimitive s).free = s.free + 1 := by
  simp [endPrimitive]

/-! enqueue: what it answers (R216). -/

theorem enqueue_full {sel : Sel} {wdata : Option Word} {s : State} (h : s.queue.count = s.cfg.qcap) :
    enqueue sel wdata s = none := by
  simp [enqueue, h]

theorem enqueue_room {sel : Sel} {wdata : Option Word} {s : State} (h : s.queue.count ≠ s.cfg.qcap) :
    enqueue sel wdata s =
      some
        ((s.setQueue
              { s.queue with
                slots := s.queue.slots.set (slotOf s.cfg s.queue s.queue.count)
                  { freeOp s.free with sel := sel, wdata := wdata.getD (freeOp s.free).wdata }
                count := s.queue.count + 1 }).setFree
          (s.free + 4)) := by
  simp [enqueue, h]

/-! The target's answers. -/

@[simp] theorem targetBits_length (n : Nat) (s : State) : (targetBits n s).length = n := by
  simp [targetBits]

@[simp] theorem bitsLsbFirst_length {n : Nat} (v : BitVec n) (count : Nat) : (bitsLsbFirst v count).length = count := by
  simp [bitsLsbFirst]

/-- Where enough answers are listed, the samples are the answers in order. -/
theorem targetBits_listed {bits rest : List Bool} {s : State} (h : s.wire.answers = bits ++ rest) :
    targetBits bits.length s = bits := by
  apply List.ext_getElem
  · simp
  · intro i h1 h2
    have hi : i < bits.length := by simpa using h1
    simp [targetBits, h, List.getD_eq_getElem?_getD, List.getElem?_append_left hi, List.getElem?_eq_getElem hi]

/-- The samples depend on the wire alone. -/
theorem targetBits_congr {n : Nat} {s t : State} (ha : t.wire.answers = s.wire.answers)
    (hd : t.wire.drawn = s.wire.drawn) : targetBits n t = targetBits n s := by
  simp [targetBits, ha, hd]

end Sys2Proof.Machine
end

