-- ==== Sys2Proof/Laws/Driver.lean ====
section
/-!
SUPPORT. What each driver primitive does, field by field: the spec lemmas that proofs cite instead of unfolding them.
-/

namespace Sys2Proof.Machine

open Sys2Proof

/-! writeBits -/

@[simp] theorem writeBits_cfg {n : Nat} (bits : BitVec n) (count : Nat) (s : State) :
    (writeBits bits count s).cfg =
      s.cfg := by
  simp [writeBits]

@[simp] theorem writeBits_ses {n : Nat} (bits : BitVec n) (count : Nat) (s : State) :
    (writeBits bits count s).ses =
      s.ses := by
  simp [writeBits]

@[simp] theorem writeBits_queue {n : Nat} (bits : BitVec n) (count : Nat) (s : State) :
    (writeBits bits count s).queue =
      s.queue := by
  simp [writeBits]

@[simp] theorem writeBits_pin {n : Nat} (bits : BitVec n) (count : Nat) (s : State) :
    (writeBits bits count s).pin =
      { s.pin with clkO := false, dioO := (bitsLsbFirst bits count).getLastD s.pin.dioO } := by
  simp [writeBits]

@[simp] theorem writeBits_work {n : Nat} (bits : BitVec n) (count : Nat) (s : State) :
    (writeBits bits count s).work =
      { s.work with h := s.ses.half, shift := bits.setWidth 35, bitcnt := 0#6 } := by
  simp [writeBits]

@[simp] theorem writeBits_timers {n : Nat} (bits : BitVec n) (count : Nat) (s : State) :
    (writeBits bits count s).timers =
      { s.timers with phaseCnt := freeHalf s.cfg s.free } := by
  simp [writeBits]

@[simp] theorem writeBits_rspBuf {n : Nat} (bits : BitVec n) (count : Nat) (s : State) :
    (writeBits bits count s).rspBuf =
      s.rspBuf := by
  simp [writeBits]

@[simp] theorem writeBits_host {n : Nat} (bits : BitVec n) (count : Nat) (s : State) :
    (writeBits bits count s).host =
      s.host := by
  simp [writeBits]

@[simp] theorem writeBits_wire {n : Nat} (bits : BitVec n) (count : Nat) (s : State) :
    (writeBits bits count s).wire =
      { s.wire with trace := s.wire.trace ++ (bitsLsbFirst bits count).map fun b => .drive b s.ses.half } := by
  simp [writeBits]

/-! readBits -/

@[simp] theorem readBits_cfg (count : Nat) (s : State) :
    (readBits count s).cfg =
      s.cfg := by
  simp [readBits]

@[simp] theorem readBits_ses (count : Nat) (s : State) :
    (readBits count s).ses =
      s.ses := by
  simp [readBits]

@[simp] theorem readBits_queue (count : Nat) (s : State) :
    (readBits count s).queue =
      s.queue := by
  simp [readBits]

@[simp] theorem readBits_pin (count : Nat) (s : State) :
    (readBits count s).pin =
      { s.pin with clkO := false } := by
  simp [readBits]

@[simp] theorem readBits_work (count : Nat) (s : State) :
    (readBits count s).work =
      { s.work with h := s.ses.half, shift := BitVec.ofNat 35 (natOfBits (targetBits count s)), bitcnt := 0#6 } := by
  simp [readBits]

@[simp] theorem readBits_timers (count : Nat) (s : State) :
    (readBits count s).timers =
      { s.timers with phaseCnt := freeHalf s.cfg s.free } := by
  simp [readBits]

@[simp] theorem readBits_rspBuf (count : Nat) (s : State) :
    (readBits count s).rspBuf =
      s.rspBuf := by
  simp [readBits]

@[simp] theorem readBits_host (count : Nat) (s : State) :
    (readBits count s).host =
      s.host := by
  simp [readBits]

@[simp] theorem readBits_wire (count : Nat) (s : State) :
    (readBits count s).wire =
      { s.wire with
        trace := s.wire.trace ++ (targetBits count s).map fun b => .sample b s.ses.half
        answers := s.wire.answers.drop count
        drawn := s.wire.drawn + count } := by
  simp [readBits]

/-! turnToSample -/

@[simp] theorem turnToSample_cfg (s : State) :
    (turnToSample s).cfg =
      s.cfg := by
  simp [turnToSample]

@[simp] theorem turnToSample_ses (s : State) :
    (turnToSample s).ses =
      s.ses := by
  simp [turnToSample]

@[simp] theorem turnToSample_queue (s : State) :
    (turnToSample s).queue =
      s.queue := by
  simp [turnToSample]

@[simp] theorem turnToSample_pin (s : State) :
    (turnToSample s).pin =
      { s.pin with clkO := false, dioOE := false, dioO := freeBit s.free } := by
  simp [turnToSample]

@[simp] theorem turnToSample_work (s : State) :
    (turnToSample s).work =
      { s.work with h := s.ses.half, bitcnt := 0#6 } := by
  simp [turnToSample]

@[simp] theorem turnToSample_timers (s : State) :
    (turnToSample s).timers =
      { s.timers with phaseCnt := freeHalf s.cfg (s.free + 1) } := by
  simp [turnToSample]

@[simp] theorem turnToSample_rspBuf (s : State) :
    (turnToSample s).rspBuf =
      s.rspBuf := by
  simp [turnToSample]

@[simp] theorem turnToSample_host (s : State) :
    (turnToSample s).host =
      s.host := by
  simp [turnToSample]

@[simp] theorem turnToSample_wire (s : State) :
    (turnToSample s).wire =
      { s.wire with trace := s.wire.trace ++ List.replicate s.cfg.trn (.turn s.ses.half) } := by
  simp [turnToSample]

/-! turnToDrive -/

@[simp] theorem turnToDrive_cfg (s : State) :
    (turnToDrive s).cfg =
      s.cfg := by
  simp [turnToDrive]

@[simp] theorem turnToDrive_ses (s : State) :
    (turnToDrive s).ses =
      s.ses := by
  simp [turnToDrive]

@[simp] theorem turnToDrive_queue (s : State) :
    (turnToDrive s).queue =
      s.queue := by
  simp [turnToDrive]

@[simp] theorem turnToDrive_pin (s : State) :
    (turnToDrive s).pin =
      { s.pin with clkO := false, dioOE := true, dioO := false } := by
  simp [turnToDrive]

@[simp] theorem turnToDrive_work (s : State) :
    (turnToDrive s).work =
      { s.work with h := s.ses.half, bitcnt := 0#6 } := by
  simp [turnToDrive]

@[simp] theorem turnToDrive_timers (s : State) :
    (turnToDrive s).timers =
      { s.timers with phaseCnt := freeHalf s.cfg s.free } := by
  simp [turnToDrive]

@[simp] theorem turnToDrive_rspBuf (s : State) :
    (turnToDrive s).rspBuf =
      s.rspBuf := by
  simp [turnToDrive]

@[simp] theorem turnToDrive_host (s : State) :
    (turnToDrive s).host =
      s.host := by
  simp [turnToDrive]

@[simp] theorem turnToDrive_wire (s : State) :
    (turnToDrive s).wire =
      { s.wire with trace := s.wire.trace ++ List.replicate s.cfg.trn (.turn s.ses.half) } := by
  simp [turnToDrive]

/-! shiftBits -/

@[simp] theorem shiftBits_cfg {n : Nat} (bits : BitVec n) (count : Nat) (s : State) :
    (shiftBits bits count s).cfg =
      s.cfg := by
  simp [shiftBits]

@[simp] theorem shiftBits_ses {n : Nat} (bits : BitVec n) (count : Nat) (s : State) :
    (shiftBits bits count s).ses =
      s.ses := by
  simp [shiftBits]

@[simp] theorem shiftBits_queue {n : Nat} (bits : BitVec n) (count : Nat) (s : State) :
    (shiftBits bits count s).queue =
      s.queue := by
  simp [shiftBits]

@[simp] theorem shiftBits_pin {n : Nat} (bits : BitVec n) (count : Nat) (s : State) :
    (shiftBits bits count s).pin =
      { s.pin with clkO := false, dioO := (bitsLsbFirst bits count).getLastD s.pin.dioO } := by
  simp [shiftBits]

@[simp] theorem shiftBits_work {n : Nat} (bits : BitVec n) (count : Nat) (s : State) :
    (shiftBits bits count s).work =
      { s.work with h := s.ses.half, shift := BitVec.ofNat 35 (natOfBits (targetBits count s)), bitcnt := 0#6 } := by
  simp [shiftBits]

@[simp] theorem shiftBits_timers {n : Nat} (bits : BitVec n) (count : Nat) (s : State) :
    (shiftBits bits count s).timers =
      { s.timers with phaseCnt := freeHalf s.cfg s.free } := by
  simp [shiftBits]

@[simp] theorem shiftBits_rspBuf {n : Nat} (bits : BitVec n) (count : Nat) (s : State) :
    (shiftBits bits count s).rspBuf =
      s.rspBuf := by
  simp [shiftBits]

@[simp] theorem shiftBits_host {n : Nat} (bits : BitVec n) (count : Nat) (s : State) :
    (shiftBits bits count s).host =
      s.host := by
  simp [shiftBits]

@[simp] theorem shiftBits_wire {n : Nat} (bits : BitVec n) (count : Nat) (s : State) :
    (shiftBits bits count s).wire =
      { s.wire with
        trace := s.wire.trace ++
          List.zipWith (fun o i => .scan o i s.ses.half) (bitsLsbFirst bits count) (targetBits count s)
        answers := s.wire.answers.drop count
        drawn := s.wire.drawn + count } := by
  simp [shiftBits]

/-! turnaround, by the direction of the line (R121). -/

theorem turnaround_driving {s : State} (h : s.pin.dioOE = true) : turnaround s = turnToSample s := by
  simp [turnaround, h]

theorem turnaround_sampling {s : State} (h : s.pin.dioOE = false) : turnaround s = turnToDrive s := by
  simp [turnaround, h]

end Sys2Proof.Machine
end

