-- ==== Sys2Proof/Laws/Codec.lean ====
section
/-!
SUPPORT. What the codec does: the opening of a SWD-style transaction, the outcome of `Transact` by acknowledgement, the
scan transaction, and the frame of `Transact` and `RunOp`.
-/

namespace Sys2Proof.Machine

open Sys2Proof

/-! Bits and values. -/

theorem natOfBits_testBit (bs : List Bool) (i : Nat) : (natOfBits bs).testBit i = bs.getD i false := by
  induction bs generalizing i with
  | nil => simp [natOfBits]
  | cons b bs ih =>
    cases i with
    | zero => cases b <;> simp [natOfBits, Nat.testBit_zero]
    | succ i =>
      have : (b.toNat + 2 * natOfBits bs) / 2 = natOfBits bs := by cases b <;> simp; omega
      simp [natOfBits, Nat.testBit_succ, this, ih]

/-- Assembling the bits of a value gives the value back (R65). -/
theorem ofNat_natOfBits {n : Nat} (v : BitVec n) : BitVec.ofNat n (natOfBits (bitsLsbFirst v n)) = v := by
  apply BitVec.eq_of_getLsbD_eq
  intro i hi
  rw [BitVec.getLsbD_ofNat, natOfBits_testBit]
  simp [bitsLsbFirst, hi]

/-- The bits of an assembled value are the first bits of the list (R65). -/
theorem bits_ofNat_natOfBits {n : Nat} {l : List Bool} (h : n ≤ l.length) :
    bitsLsbFirst (BitVec.ofNat n (natOfBits l)) n = l.take n := by
  apply List.ext_getElem
  · simp [h]
  · intro i h1 h2
    have hi : i < n := by simpa using h1
    simp only [bitsLsbFirst, List.getElem_map, List.getElem_range, BitVec.getLsbD_ofNat, natOfBits_testBit,
      List.getElem_take]
    have : i < l.length := by omega
    simp [hi, this]

/-- The bits of the data phase: value bits, then the parity bit (R99). -/
theorem bits_dataWord (v : Word) (p : Bool) : bitsLsbFirst (dataWord v p) 33 = bitsLsbFirst v 32 ++ [p] := by
  apply List.ext_getElem
  · simp
  · intro i h1 h2
    have hi : i < 33 := by simpa using h1
    rcases Nat.lt_or_ge i 32 with h | h
    · rw [List.getElem_append_left (by simpa using h)]
      simp [bitsLsbFirst, dataWord, h, hi]
    · have : i = 32 := by omega
      subst this
      simp [bitsLsbFirst, dataWord]

/-! The opening. -/

section opening

variable (sel : Sel) (wdata : Word) (s : State)

@[simp] theorem loadOperation_cfg : (loadOperation sel wdata s).cfg = s.cfg := rfl
@[simp] theorem loadOperation_ses : (loadOperation sel wdata s).ses = s.ses := rfl
@[simp] theorem loadOperation_queue : (loadOperation sel wdata s).queue = s.queue := rfl
@[simp] theorem loadOperation_pin : (loadOperation sel wdata s).pin = s.pin := rfl
@[simp] theorem loadOperation_rspBuf : (loadOperation sel wdata s).rspBuf = s.rspBuf := rfl
@[simp] theorem loadOperation_host : (loadOperation sel wdata s).host = s.host := rfl
@[simp] theorem loadOperation_wire : (loadOperation sel wdata s).wire = s.wire := rfl
@[simp] theorem loadOperation_work :
    (loadOperation sel wdata s).work = { s.work with sel := sel, wdata := wdata } := rfl

end opening

/-- The 3-bit value of the next three samples. -/
def nextAck (s : State) : BitVec 3 :=
  BitVec.ofNat 3 (natOfBits (targetBits 3 s))

section opening

variable {sel : Sel} {wdata : Word} {s : State}

theorem swdOpening_cfg (h : s.pin.dioOE = true) : (swdOpening sel wdata s).cfg = s.cfg := by
  simp [swdOpening, swdAcknowledge, swdRequest, turnaround, h]

theorem swdOpening_ses (h : s.pin.dioOE = true) : (swdOpening sel wdata s).ses = s.ses := by
  simp [swdOpening, swdAcknowledge, swdRequest, turnaround, h]

theorem swdOpening_queue (h : s.pin.dioOE = true) : (swdOpening sel wdata s).queue = s.queue := by
  simp [swdOpening, swdAcknowledge, swdRequest, turnaround, h]

theorem swdOpening_rspBuf (h : s.pin.dioOE = true) : (swdOpening sel wdata s).rspBuf = s.rspBuf := by
  simp [swdOpening, swdAcknowledge, swdRequest, turnaround, h]

theorem swdOpening_host (h : s.pin.dioOE = true) : (swdOpening sel wdata s).host = s.host := by
  simp [swdOpening, swdAcknowledge, swdRequest, turnaround, h]

theorem swdOpening_clkO (h : s.pin.dioOE = true) : (swdOpening sel wdata s).pin.clkO = false := by
  simp [swdOpening, swdAcknowledge, swdRequest, turnaround, h]

theorem swdOpening_clkOE (h : s.pin.dioOE = true) : (swdOpening sel wdata s).pin.clkOE = s.pin.clkOE := by
  simp [swdOpening, swdAcknowledge, swdRequest, turnaround, h]

theorem swdOpening_dioOE (h : s.pin.dioOE = true) : (swdOpening sel wdata s).pin.dioOE = false := by
  simp [swdOpening, swdAcknowledge, swdRequest, turnaround, h]

theorem swdOpening_wire (h : s.pin.dioOE = true) :
    (swdOpening sel wdata s).wire =
      { s.wire with
        trace := s.wire.trace ++ openingTrace s.cfg s.ses.half sel (targetBits 3 s)
        answers := s.wire.answers.drop 3
        drawn := s.wire.drawn + 3 } := by
  simp [swdOpening, swdAcknowledge, swdRequest, turnaround, h, openingTrace, drives, samples, turns, targetBits]

theorem swdOpening_ack (h : s.pin.dioOE = true) : (swdOpening sel wdata s).work.ack = nextAck s := by
  simp [swdOpening, swdAcknowledge, swdRequest, turnaround, h, nextAck, targetBits, BitVec.setWidth_ofNat_of_le]

end opening

/-! Which work registers a transaction leaves alone: those of the drain loop. -/

/-- The working registers of QEXEC and W.OP are the same. -/
structure BatchWork (w v : Work) : Prop where
  op : v.op = w.op
  idx : v.idx = w.idx
  total : v.total = w.total
  executed : v.executed = w.executed
  failidx : v.failidx = w.failidx
  bstatus : v.bstatus = w.bstatus
  stopped : v.stopped = w.stopped

theorem BatchWork.refl (w : Work) : BatchWork w w := ⟨rfl, rfl, rfl, rfl, rfl, rfl, rfl⟩

theorem BatchWork.trans {u v w : Work} (h : BatchWork u v) (k : BatchWork v w) : BatchWork u w :=
  ⟨k.op.trans h.op, k.idx.trans h.idx, k.total.trans h.total,
    k.executed.trans h.executed, k.failidx.trans h.failidx, k.bstatus.trans h.bstatus, k.stopped.trans h.stopped⟩

/-- What one transaction does: its status, its wire events `evs`, the `k` answers it consumes, and all it leaves alone. -/
structure Transacted (s : State) (r : Status × State) (st : Status) (evs : List WireEvent) (k : Nat) : Prop where
  status : r.1 = st
  cfg : r.2.cfg = s.cfg
  ses : r.2.ses = { s.ses with irState := r.2.ses.irState }
  queue : r.2.queue = s.queue
  pin : r.2.pin = drivenLow
  rspBuf : r.2.rspBuf = s.rspBuf
  host : r.2.host = s.host
  wire : r.2.wire =
    { s.wire with
      trace := s.wire.trace ++ evs
      answers := s.wire.answers.drop k
      drawn := s.wire.drawn + k }
  work : BatchWork s.work r.2.work
  h : r.2.work.h = s.ses.half
  phase : r.2.timers.phaseCnt ≤ halfMax s.cfg

theorem freeHalf_le (c : Config) (n : Nat) : freeHalf c n ≤ halfMax c := by
  exact Nat.le_of_lt_succ (Nat.mod_lt _ (Nat.succ_pos _))

/-- What `codecReady` says (40 R126, 41 R142, R160). -/
theorem codecReady_iff {s : State} :
    codecReady s = true ↔
      s.ses.disc ≠ .none ∧ s.pin.clkOE = true ∧ s.pin.clkO = false ∧ s.pin.dioOE = true ∧
        (s.ses.disc = .scan → s.cfg.hasAux = true) := by
  simp [codecReady, and_assoc, imp_iff_not_or]

theorem ackClass_ok_iff {ack : BitVec 3} : ackClass ack = .ok ↔ ack = 1#3 := by
  revert ack; decide

theorem ackClass_wait_iff {ack : BitVec 3} : ackClass ack = .wait ↔ ack = 2#3 := by
  revert ack; decide

/-- An OK acknowledgement is the levels 1, 0, 0 (30_encoding.md R98). -/
theorem targetBits_of_nextAck {s : State} {a : BitVec 3} (h : nextAck s = a) : targetBits 3 s = bitsLsbFirst a 3 := by
  subst h
  have hl := targetBits_length 3 s
  match hb : targetBits 3 s, hl with
  | [a, b, c], _ =>
    simp only [nextAck, hb]
    clear hb hl
    revert a b c; decide

section swd

variable {sel : Sel} {wdata : Word} {s : State}

/-- The value bits and the parity bit of the next data phase. -/
def nextData (s : State) : Word :=
  BitVec.ofNat 32 (natOfBits (targetBits 33 (consume 3 s)))
def nextPar (s : State) : Bool :=
  (targetBits 33 (consume 3 s)).getD 32 false

/-- The 33 samples of a data phase are the value's bits and the parity bit (R99). -/
theorem targetBits_data (s : State) :
    targetBits 33 (consume 3 s) = bitsLsbFirst (nextData s) 32 ++ [nextPar s] := by
  unfold nextData nextPar
  have hl := targetBits_length 33 (consume 3 s)
  generalize targetBits 33 (consume 3 s) = l at *
  rw [bits_ofNat_natOfBits (by omega)]
  conv_lhs => rw [← List.take_append_drop 32 l]
  congr 1
  apply List.ext_getElem
  · simp [hl]
  · intro i h1 h2
    have hi : i = 0 := by simpa using h2
    subst hi
    simp [List.getD_eq_getElem?_getD, hl]

theorem swdOpening_work (h : s.pin.dioOE = true) : BatchWork s.work (swdOpening sel wdata s).work := by
  constructor <;> simp [swdOpening, swdAcknowledge, swdRequest, turnaround, h]

theorem swdOpening_h (h : s.pin.dioOE = true) : (swdOpening sel wdata s).work.h = s.ses.half := by
  simp [swdOpening, swdAcknowledge, swdRequest, turnaround, h]

/-- WAIT, FAULT and NO_ACK: no data phase, one turnaround (R146 to R148). -/
theorem transactSwd_refused (hr : codecReady s = true) (ha : nextAck s ≠ 1#3) :
    Transacted s (transactSwd sel wdata s) (ackClass (nextAck s))
        (refusedTrace s.cfg s.ses.half sel (targetBits 3 s)) 3 ∧
      (transactSwd sel wdata s).2.ses = s.ses := by
  obtain ⟨-, hoe, -, hd, -⟩ := codecReady_iff.1 hr
  have hne : ackClass (nextAck s) ≠ .ok := fun h => ha (ackClass_ok_iff.1 h)
  have hw := swdOpening_work (sel := sel) (wdata := wdata) hd
  have e : transactSwd sel wdata s = (ackClass (nextAck s), turnToDrive (swdOpening sel wdata s)) := by
    simp [transactSwd, swdOpening_ack hd, hne, turnaround_sampling (swdOpening_dioOE hd)]
  rw [e]
  refine ⟨⟨rfl, ?_, ?_, ?_, ?_, ?_, ?_, ?_, ⟨?_, ?_, ?_, ?_, ?_, ?_, ?_⟩, ?_, ?_⟩, ?_⟩ <;>
    simp [swdOpening_cfg hd, swdOpening_ses hd, swdOpening_queue hd, swdOpening_clkOE hd, swdOpening_rspBuf hd,
      swdOpening_host hd, swdOpening_wire hd, drivenLow, hoe, refusedTrace, turns, hw.op, hw.idx, hw.total,
      hw.executed, hw.failidx, hw.bstatus, hw.stopped, freeHalf_le]

/-- An OK write: the value and its parity are driven (R145). -/
theorem transactSwd_write (hr : codecReady s = true) (ha : nextAck s = 1#3) (hw : selIsRead sel = false) :
    Transacted s (transactSwd sel wdata s) .ok (writeTrace s.cfg s.ses.half sel wdata) 3 ∧
      (transactSwd sel wdata s).2.ses = s.ses := by
  obtain ⟨-, hoe, -, hd, -⟩ := codecReady_iff.1 hr
  have hok : ackClass (nextAck s) = .ok := ackClass_ok_iff.2 ha
  have hb : targetBits 3 s = ackOk := targetBits_of_nextAck ha
  have hk := swdOpening_work (sel := sel) (wdata := wdata) hd
  have e : transactSwd sel wdata s = (.ok, swdWriteData wdata (turnToDrive (swdOpening sel wdata s))) := by
    simp [transactSwd, swdOpening_ack hd, hok, hw, turnaround_sampling (swdOpening_dioOE hd)]
  rw [e]
  refine ⟨⟨rfl, ?_, ?_, ?_, ?_, ?_, ?_, ?_, ⟨?_, ?_, ?_, ?_, ?_, ?_, ?_⟩, ?_, ?_⟩, ?_⟩ <;>
    simp [swdWriteData, swdOpening_cfg hd, swdOpening_ses hd, swdOpening_queue hd, swdOpening_clkOE hd,
      swdOpening_rspBuf hd, swdOpening_host hd, swdOpening_wire hd, drivenLow, hoe, writeTrace, drives, turns, hb,
      bits_dataWord, hk.op, hk.idx, hk.total, hk.executed, hk.failidx, hk.bstatus, hk.stopped, freeHalf_le]

/-- An OK read: 32 data bits and the parity bit are sampled and checked (R144, R149). -/
theorem transactSwd_read (hr : codecReady s = true) (ha : nextAck s = 1#3) (hw : selIsRead sel = true) :
    Transacted s (transactSwd sel wdata s) (readStatus (nextData s) (nextPar s))
        (openingTrace s.cfg s.ses.half sel ackOk ++ samples s.ses.half (targetBits 33 (consume 3 s)) ++
          turns s.cfg s.ses.half) 36 ∧
      (transactSwd sel wdata s).2.ses = s.ses ∧ (transactSwd sel wdata s).2.work.rdata = nextData s := by
  obtain ⟨-, hoe, -, hd, -⟩ := codecReady_iff.1 hr
  have hok : ackClass (nextAck s) = .ok := ackClass_ok_iff.2 ha
  have hb : targetBits 3 s = ackOk := targetBits_of_nextAck ha
  have hk := swdOpening_work (sel := sel) (wdata := wdata) hd
  have ht : targetBits 33 (swdOpening sel wdata s) = targetBits 33 (consume 3 s) :=
    targetBits_congr (by simp [swdOpening_wire hd]) (by simp [swdOpening_wire hd])
  have hoe2 : (swdReadData (swdOpening sel wdata s)).pin.dioOE = false := by
    simp [swdReadData, swdOpening_dioOE hd]
  have hrd : (swdReadData (swdOpening sel wdata s)).work.rdata = nextData s := by
    simp [swdReadData, ht, nextData, BitVec.setWidth_ofNat_of_le]
  have hpar : (swdReadData (swdOpening sel wdata s)).work.par = nextPar s := by
    simp only [swdReadData, State.setWork_work, readBits_work, ht, nextPar]
    rw [BitVec.getLsbD_ofNat, natOfBits_testBit]
    rfl
  have e : transactSwd sel wdata s =
      (readStatus (nextData s) (nextPar s), turnToDrive (swdReadData (swdOpening sel wdata s))) := by
    simp [transactSwd, swdOpening_ack hd, hok, hw, turnaround_sampling hoe2, hrd, hpar]
  rw [e]
  refine ⟨⟨rfl, ?_, ?_, ?_, ?_, ?_, ?_, ?_, ⟨?_, ?_, ?_, ?_, ?_, ?_, ?_⟩, ?_, ?_⟩, ?_, ?_⟩
  case refine_18 => simpa using hrd
  all_goals
    simp [swdReadData, swdOpening_cfg hd, swdOpening_ses hd, swdOpening_queue hd, swdOpening_clkOE hd,
      swdOpening_rspBuf hd, swdOpening_host hd, swdOpening_wire hd, drivenLow, hoe, samples, turns, hb, ht,
      hk.op, hk.idx, hk.total, hk.executed, hk.failidx, hk.bstatus, hk.stopped, freeHalf_le]

end swd

/-! The scan-style transaction. -/

/-- The X events of a scan transaction: the chain-select field where S.IR_STATE names another port, then the word
(R161, R163). The incoming levels are the target's next answers, in order. -/
def scanTrace (sel : Sel) (wdata : Word) (s : State) : List WireEvent :=
  if s.ses.irState = irOf (selPort sel) then
    scans s.ses.half (bitsLsbFirst (scanWord sel wdata) 35) (targetBits 35 s)
  else
    scans s.ses.half (bitsLsbFirst (scanIrCode s.cfg (selPort sel)) s.cfg.scanIrLen) (targetBits s.cfg.scanIrLen s) ++
      scans s.ses.half (bitsLsbFirst (scanWord sel wdata) 35) (targetBits 35 (consume s.cfg.scanIrLen s))

/-- The chain-select answers a scan transaction consumes (R161, R166). -/
def scanLead (sel : Sel) (s : State) : Nat :=
  if s.ses.irState = irOf (selPort sel) then 0 else s.cfg.scanIrLen

/-- The 35 incoming bits of a word are three bits and the bits of the value (R101, R164). -/
theorem bits_scan {l : List Bool} (hl : l.length = 35) :
    l = l.take 3 ++ bitsLsbFirst ((BitVec.ofNat 35 (natOfBits l)).extractLsb' 3 32) 32 := by
  apply List.ext_getElem
  · simp [hl]
  · intro i h1 h2
    rcases Nat.lt_or_ge i 3 with h | h
    · rw [List.getElem_append_left (by simp [hl, h])]
      simp
    · rw [List.getElem_append_right (by simp [hl, h])]
      have e : 3 + (i - 3) = i := by omega
      have h3 : i < 35 := by omega
      have h4 : i - 3 < 32 := by omega
      have hb : (BitVec.ofNat 35 (natOfBits l)).getLsbD i = l[i] := by
        rw [BitVec.getLsbD_ofNat, natOfBits_testBit]
        simp [h3, List.getD_eq_getElem?_getD, h1]
      simpa [bitsLsbFirst, hl, h3, h4, e] using hb.symm

theorem consume_zero (s : State) : targetBits 35 (consume 0 s) = targetBits 35 s :=
  targetBits_congr (by simp) (by simp)

section scan

variable {sel : Sel} {wdata : Word} {s : State}

/-- Always OK; the value of a read is incoming bits 3 to 34 (R160 to R166). -/
theorem transactScan_ok (hr : codecReady s = true) :
    Transacted s (transactScan sel wdata s) .ok (scanTrace sel wdata s) (scanLead sel s + 35) ∧
      (transactScan sel wdata s).2.ses.irState = irOf (selPort sel) ∧
      (selIsRead sel = true →
        (transactScan sel wdata s).2.work.rdata =
          (BitVec.ofNat 35 (natOfBits (targetBits 35 (consume (scanLead sel s) s)))).extractLsb' 3 32) := by
  obtain ⟨-, hoe, -, hd, -⟩ := codecReady_iff.1 hr
  by_cases hir : s.ses.irState = irOf (selPort sel)
  · have e : transactScan sel wdata s =
        (.ok, scanData (scanWord sel wdata) (selIsRead sel) (loadOperation sel wdata s)) := by
      simp [transactScan, hir]
    rw [e]
    have ht : targetBits 35 (loadOperation sel wdata s) = targetBits 35 s := targetBits_congr rfl rfl
    have ht0 := consume_zero s
    refine ⟨⟨rfl, ?_, ?_, ?_, ?_, ?_, ?_, ?_, ⟨?_, ?_, ?_, ?_, ?_, ?_, ?_⟩, ?_, ?_⟩, ?_, ?_⟩ <;>
      cases hrw : selIsRead sel <;>
      simp [scanData, drivenLow, hoe, hd, hir, ht, ht0, scanTrace, scanLead, scans, freeHalf_le] <;>
      rw [← hir]
  · have e : transactScan sel wdata s =
        (.ok, scanData (scanWord sel wdata) (selIsRead sel)
          (scanSelect (selPort sel) (loadOperation sel wdata s))) := by
      simp [transactScan, hir]
    rw [e]
    have ht : targetBits s.cfg.scanIrLen (loadOperation sel wdata s) = targetBits s.cfg.scanIrLen s :=
      targetBits_congr rfl rfl
    have ht2 : targetBits 35 (scanSelect (selPort sel) (loadOperation sel wdata s)) =
        targetBits 35 (consume s.cfg.scanIrLen s) :=
      targetBits_congr (by simp [scanSelect]) (by simp [scanSelect])
    refine ⟨⟨rfl, ?_, ?_, ?_, ?_, ?_, ?_, ?_, ⟨?_, ?_, ?_, ?_, ?_, ?_, ?_⟩, ?_, ?_⟩, ?_, ?_⟩ <;>
      cases hrw : selIsRead sel <;>
      simp [scanData, drivenLow, hir, ht2, scanTrace, scanLead, scans] <;>
      simp [scanSelect, ht, hoe, hd, freeHalf_le, Nat.add_assoc]

end scan

/-! Transact, the retry loop and RunOp. -/

/-- A transaction leaves the codec ready for the next one (R157, R166). -/
theorem Transacted.ready {s : State} {r : Status × State} {st : Status} {evs : List WireEvent} {k : Nat}
    (h : Transacted s r st evs k) (hr : codecReady s = true) : codecReady r.2 = true := by
  rw [codecReady_iff] at hr ⊢
  obtain ⟨h1, -, -, -, h5⟩ := hr
  rw [h.ses, h.pin, h.cfg]
  exact ⟨h1, rfl, rfl, rfl, h5⟩

/-- Two transactions one after the other (20_memory.md R70). -/
theorem Transacted.trans {s t : State} {a : Status} {r : Status × State} {st : Status} {e1 e2 : List WireEvent}
    {k1 k2 : Nat} (h1 : Transacted s (a, t) a e1 k1) (h2 : Transacted t r st e2 k2) :
    Transacted s r st (e1 ++ e2) (k1 + k2) where
  status := h2.status
  cfg := h2.cfg.trans h1.cfg
  ses := by rw [h2.ses, h1.ses]
  queue := h2.queue.trans h1.queue
  pin := h2.pin
  rspBuf := h2.rspBuf.trans h1.rspBuf
  host := h2.host.trans h1.host
  wire := by
    rw [h2.wire, h1.wire]
    simp [List.drop_drop, Nat.add_assoc]
  work := h1.work.trans h2.work
  h := by rw [h2.h, h1.ses]
  phase := by have := h2.phase; rwa [h1.cfg] at this

/-- Which status one transaction can have (R140, R143, R165). -/
def Status.ofTransact (d : Disc) (isRead : Bool) : Status → Prop
  | .ok => True
  | .wait => d = .swd
  | .fault => d = .swd
  | .parityErr => d = .swd ∧ isRead = true
  | .noAck => d = .swd
  | .timeout => False
  | .queueFull => False
  | .notExecuted => False
  | .badCommand => False
  | .badState => False

/-- What one transaction with status `st` and value `v` puts on the wire (R144 to R149, R161 to R164). -/
def oneOnWire (c : Config) (h : Nat) (ir : IrState) (sel : Sel) (wdata : Word) (st : Status) (v : Word)
    (evs : List WireEvent) : Disc → Prop
  | .none => False
  | .swd => lastOnWire c h sel wdata v evs st
  | .scan => st = .ok ∧ scanOnWire c h ir sel wdata v evs

theorem scanTrace_onWire {sel : Sel} {wdata v : Word} {s : State}
    (hv : selIsRead sel = true →
      v = (BitVec.ofNat 35 (natOfBits (targetBits 35 (consume (scanLead sel s) s)))).extractLsb' 3 32) :
    scanOnWire s.cfg s.ses.half s.ses.irState sel wdata v (scanTrace sel wdata s) := by
  refine ⟨targetBits s.cfg.scanIrLen s, (targetBits 35 (consume (scanLead sel s) s)).take 3, _, by simp, by simp, ?_,
    fun h => (hv h).symm⟩
  rw [← bits_scan (by simp)]
  unfold scanTrace scanLead
  split
  · simp [consume_zero]
  · rfl

/-- The trace of a transaction answered with `ack`, neither OK, is that of the status of its class (R146 to R148). -/
theorem lastOnWire_refused (c : Config) (h : Nat) (sel : Sel) (wdata v : Word) {ack : BitVec 3} (hne : ack ≠ 1#3) :
    lastOnWire c h sel wdata v (refusedTrace c h sel (bitsLsbFirst ack 3)) (ackClass ack) := by
  have hc : ack = 2#3 ∨ ack = 4#3 ∨ ackClass ack = .noAck := by
    revert ack; decide
  rcases hc with rfl | rfl | hc
  · rfl
  · rfl
  · rw [hc]
    exact ⟨ack, hc, rfl⟩

/-- Everything one transaction can do: a status, its trace with the value on the wire, and what becomes of S.IR_STATE and
of the Session State; all else as `Transacted` says. -/
theorem transact_spec {sel : Sel} {wdata : Word} {s : State} (hr : codecReady s = true) :
    ∃ st evs k, Transacted s (transact sel wdata s) st evs k ∧ st.ofTransact s.ses.disc (selIsRead sel) ∧
      oneOnWire s.cfg s.ses.half s.ses.irState sel wdata st (transact sel wdata s).2.work.rdata evs s.ses.disc ∧
      (s.ses.disc = .swd → (transact sel wdata s).2.ses = s.ses) ∧
      (s.ses.disc = .scan → (transact sel wdata s).2.ses.irState = irOf (selPort sel)) := by
  obtain ⟨hd, -⟩ := codecReady_iff.1 hr
  cases hdisc : s.ses.disc with
  | none => exact absurd hdisc hd
  | scan =>
    simp only [transact, hdisc]
    obtain ⟨ht, hir, hv⟩ := transactScan_ok (sel := sel) (wdata := wdata) hr
    exact ⟨_, _, _, ht, trivial, ⟨rfl, scanTrace_onWire hv⟩, nofun, fun _ => hir⟩
  | swd =>
    simp only [transact, hdisc]
    by_cases ha : nextAck s = 1#3
    · cases hw : selIsRead sel with
      | false =>
        obtain ⟨ht, hs⟩ := transactSwd_write (wdata := wdata) hr ha hw
        exact ⟨_, _, _, ht, trivial, by simp [oneOnWire, lastOnWire, hw], fun _ => hs, nofun⟩
      | true =>
        obtain ⟨ht, hs, hv⟩ := transactSwd_read (wdata := wdata) hr ha hw
        rw [targetBits_data] at ht
        refine ⟨_, _, _, ht, ?_, ?_, fun _ => hs, nofun⟩
        · simp only [readStatus]
          split <;> simp [Status.ofTransact]
        · by_cases hp : nextPar s = parity32 (nextData s)
          · simp [readStatus, hp, oneOnWire, lastOnWire, hw, hv, readTrace]
          · have hn : nextPar s = !parity32 (nextData s) := by
              cases h1 : nextPar s <;> cases h2 : parity32 (nextData s) <;> simp_all
            simp [readStatus, hn, oneOnWire, lastOnWire, hw, readTrace]
            exact ⟨nextData s, rfl⟩
    · obtain ⟨ht, hs⟩ := transactSwd_refused (sel := sel) (wdata := wdata) hr ha
      rw [targetBits_of_nextAck rfl] at ht
      refine ⟨_, _, _, ht, ?_, lastOnWire_refused _ _ _ _ _ ha, fun _ => hs, nofun⟩
      have hne : ackClass (nextAck s) ≠ .ok := fun h => ha (ackClass_ok_iff.1 h)
      revert hne
      simp only [ackClass]
      split_ifs <;> simp [Status.ofTransact]

theorem runOpStatus_of_ofTransact {c : Config} {d : Disc} {b : Bool} {st : Status} (h : st.ofTransact d b)
    (hw : st ≠ .wait) : runOpStatus c d b st := by
  cases st <;> simp_all [Status.ofTransact, runOpStatus]

/-- A change of W.RETRY or W.ST alone does not matter to what a transaction does. -/
theorem Transacted.of_setWork {s : State} {w : Work} {r : Status × State} {st : Status} {evs : List WireEvent} {k : Nat}
    (h : Transacted (s.setWork w) r st evs k) (hw : BatchWork s.work w) : Transacted s r st evs k :=
  ⟨h.status, h.cfg, h.ses, h.queue, h.pin, h.rspBuf, h.host, h.wire, hw.trans h.work, h.h, h.phase⟩

theorem Transacted.setWork {s : State} {r : Status × State} {st : Status} {evs : List WireEvent} {k : Nat} {w : Work}
    (h : Transacted s r st evs k) (hw : BatchWork r.2.work w) (hh : w.h = r.2.work.h) :
    Transacted s (r.1, r.2.setWork w) st evs k :=
  ⟨h.status, h.cfg, h.ses, h.queue, h.pin, h.rspBuf, h.host, h.wire, h.work.trans hw, hh.trans h.h, h.phase⟩

theorem bumpRetry_work (s : State) : BatchWork s.work (bumpRetry s).work := ⟨rfl, rfl, rfl, rfl, rfl, rfl, rfl⟩

/-- One transaction that is the whole Operation (R212). -/
theorem opOnWire_of_one {c : Config} {h : Nat} {ir : IrState} {sel : Sel} {wdata : Word} {retries : Nat} {st : Status}
    {v : Word} {evs : List WireEvent} {d : Disc} (hw : oneOnWire c h ir sel wdata st v evs d)
    (hst : st = .wait ∨ st = .timeout → retries = 0) : opOnWire c h ir sel wdata retries st v evs d := by
  cases d with
  | none => exact hw
  | swd => exact ⟨0, evs, Nat.zero_le _, fun h => (hst h).symm, by simp [waitTrace], hw⟩
  | scan => exact hw

/-- A WAIT transaction before the rest of the Operation (R212). -/
theorem opOnWire_retry {c : Config} {h : Nat} {ir : IrState} {sel : Sel} {wdata : Word} {retries : Nat} {st : Status}
    {v : Word} {evs : List WireEvent} (hw : opOnWire c h ir sel wdata retries st v evs .swd) :
    opOnWire c h ir sel wdata (retries + 1) st v (refusedTrace c h sel ackWait ++ evs) .swd := by
  obtain ⟨n, last, hn, hx, rfl, hl⟩ := hw
  exact ⟨n + 1, last, by omega, fun h => by rw [hx h], by simp [waitTrace, List.replicate_succ], hl⟩

/-- Everything the retry loop can do: a status of R211, its transactions on the wire with the value, and what becomes of
S.IR_STATE and of the Session State; all else as `Transacted` says (R212). -/
theorem retryLoop_spec {sel : Sel} {wdata : Word} (left : Nat) {s : State} (hr : codecReady s = true) :
    ∃ st evs k, Transacted s (retryLoop sel wdata left s) st evs k ∧
      runOpStatus s.cfg s.ses.disc (selIsRead sel) st ∧
      opOnWire s.cfg s.ses.half s.ses.irState sel wdata left st (retryLoop sel wdata left s).2.work.rdata evs
        s.ses.disc ∧
      (s.ses.disc = .swd → (retryLoop sel wdata left s).2.ses = s.ses) ∧
      (s.ses.disc = .scan → (retryLoop sel wdata left s).2.ses.irState = irOf (selPort sel)) := by
  induction left generalizing s with
  | zero =>
    obtain ⟨st, evs, k, h, hst, hw, hses, hir⟩ := transact_spec (sel := sel) (wdata := wdata) hr
    by_cases hwait : st = .wait
    · subst hwait
      have hd : s.ses.disc = .swd := hst
      have e : retryLoop sel wdata 0 s =
          (if s.cfg.waitRetryMax = 0 then .wait else .timeout, (transact sel wdata s).2) := by
        simp only [retryLoop, h.status, if_true, h.cfg]
      rw [e]
      refine ⟨_, evs, k, ⟨rfl, h.cfg, h.ses, h.queue, h.pin, h.rspBuf, h.host, h.wire, h.work, h.h, h.phase⟩, ?_, ?_,
        hses, hir⟩
      · split <;> simp_all [runOpStatus]
      · refine opOnWire_of_one ?_ fun _ => rfl
        rw [hd] at hw ⊢
        split <;> exact hw
    · have e : retryLoop sel wdata 0 s = transact sel wdata s := by simp [retryLoop, h.status, hwait]
      rw [e]
      exact ⟨st, evs, k, h, runOpStatus_of_ofTransact hst hwait, opOnWire_of_one hw fun _ => rfl, hses, hir⟩
  | succ left ih =>
    obtain ⟨st, evs, k, h, hst, hw, hses, hir⟩ := transact_spec (sel := sel) (wdata := wdata) hr
    by_cases hwait : st = .wait
    · subst hwait
      have hb : Transacted s (.wait, bumpRetry (transact sel wdata s).2) .wait evs k := by
        have := h.setWork (bumpRetry_work _) rfl
        rwa [h.status] at this
      obtain ⟨st2, e2, k2, h2, hst2, hw2, hses2, -⟩ := ih (hb.ready hr)
      have e : retryLoop sel wdata (left + 1) s = retryLoop sel wdata left (bumpRetry (transact sel wdata s).2) := by
        simp [retryLoop, h.status]
      have hc : (bumpRetry (transact sel wdata s).2).cfg = s.cfg := hb.cfg
      have hd : s.ses.disc = .swd := hst
      have hs : (bumpRetry (transact sel wdata s).2).ses = s.ses := hses hd
      rw [hc, hs] at hst2 hw2
      rw [hs] at hses2
      rw [e]
      refine ⟨st2, evs ++ e2, k + k2, hb.trans h2, hst2, ?_, hses2, fun h => by rw [hd] at h; cases h⟩
      rw [hd] at hw hw2 ⊢
      rw [show evs = refusedTrace s.cfg s.ses.half sel ackWait from hw]
      exact opOnWire_retry hw2
    · have e : retryLoop sel wdata (left + 1) s = transact sel wdata s := by simp [retryLoop, h.status, hwait]
      have ht : st ≠ .timeout := by rintro rfl; exact hst
      rw [e]
      exact ⟨st, evs, k, h, runOpStatus_of_ofTransact hst hwait,
        opOnWire_of_one hw fun h => (h.elim hwait ht).elim, hses, hir⟩

/-- Everything `RunOp` can do: a status of R211, its whole wire activity with the value, some answers consumed, S.IR_STATE
naming the port in the scan discipline, no Session State written in the SWD discipline; all else as `Transacted` says
(R212). -/
theorem runOp_spec {sel : Sel} {wdata : Word} {s : State} (hr : codecReady s = true) :
    ∃ st evs k, Transacted s (runOp sel wdata s) st evs k ∧ runOpStatus s.cfg s.ses.disc (selIsRead sel) st ∧
      opOnWire s.cfg s.ses.half s.ses.irState sel wdata s.cfg.waitRetryMax st (runOp sel wdata s).2.work.rdata evs
        s.ses.disc ∧
      (s.ses.disc = .swd → (runOp sel wdata s).2.ses = s.ses) ∧
      (s.ses.disc = .scan → (runOp sel wdata s).2.ses.irState = irOf (selPort sel)) := by
  have hr' : codecReady (s.setWork { s.work with retry := 0#8 }) = true := hr
  obtain ⟨st, evs, k, h, hst, hw, hses, hir⟩ := retryLoop_spec (sel := sel) (wdata := wdata) s.cfg.waitRetryMax hr'
  refine ⟨st, evs, k, ?_, hst, hw, hses, hir⟩
  have h1 := h.of_setWork ⟨rfl, rfl, rfl, rfl, rfl, rfl, rfl⟩
  have h2 := h1.setWork (w := { (retryLoop sel wdata s.cfg.waitRetryMax
    (s.setWork { s.work with retry := 0#8 })).2.work with
      st := (retryLoop sel wdata s.cfg.waitRetryMax (s.setWork { s.work with retry := 0#8 })).1.code })
    ⟨rfl, rfl, rfl, rfl, rfl, rfl, rfl⟩ rfl
  exact h2

end Sys2Proof.Machine
end

