-- ==== Sys2Proof/Laws/Operands.lean ====
section
/-!
SUPPORT. One lemma per operand form and per wire decoder: little-endian fields (00_scope.md R13), SEL (30_encoding.md R92),
the wire words (R97 to R101), the ceiling division (00 R14) and the opcode byte of a rejected packet (R89).
-/

namespace Sys2Proof.Machine

open Sys2Proof

/-! Little-endian fields. -/

theorem u32le_of_le32 (v : Word) :
    u32le (v.extractLsb' 0 8) (v.extractLsb' 8 8) (v.extractLsb' 16 8) (v.extractLsb' 24 8) = v := by
  apply BitVec.eq_of_getLsbD_eq
  intro i hi
  simp only [u32le, BitVec.getLsbD_append, BitVec.getLsbD_extractLsb']
  interval_cases i <;> simp

theorem le32_of_u32le (a b c d : Byte) : le32 (u32le a b c d) = [a, b, c, d] := by
  simp only [le32, u32le, List.cons.injEq, and_true]
  refine ⟨?_, ?_, ?_, ?_⟩ <;> apply BitVec.eq_of_getLsbD_eq <;> intro i hi <;>
    simp only [BitVec.getLsbD_append, BitVec.getLsbD_extractLsb', hi, decide_true, Bool.true_and] <;>
    interval_cases i <;> simp

@[simp] theorem le16_length (v : BitVec 16) : (le16 v).length = 2 := rfl
@[simp] theorem le32_length (v : Word) : (le32 v).length = 4 := rfl

/-! The selector. -/

@[simp] theorem selLoc_selOf (loc : Loc) (rnw : Bool) : selLoc (selOf loc rnw) = loc := by
  rcases loc with ⟨p, a⟩
  cases p <;> cases rnw <;> revert a <;> decide

@[simp] theorem selIsRead_selOf (loc : Loc) (rnw : Bool) : selIsRead (selOf loc rnw) = rnw := by
  rcases loc with ⟨p, a⟩
  cases p <;> cases rnw <;> revert a <;> decide

/-- A SEL byte the encoder makes has its reserved bits zero (R91) and its low half is the selector. -/
theorem selByte_fields (loc : Loc) (rnw : Bool) :
    (selByte loc rnw).extractLsb' 4 4 = 0#4 ∧ (selByte loc rnw).extractLsb' 0 4 = selOf loc rnw ∧
      (selByte loc rnw).getLsbD 1 = rnw := by
  rcases loc with ⟨p, a⟩
  cases p <;> cases rnw <;> revert a <;> decide

/-- Any byte with its reserved bits zero is the SEL byte of the location and direction it names. -/
theorem selByte_of_fields (b : Byte) (h : b.extractLsb' 4 4 = 0#4) :
    selByte (selLoc (b.extractLsb' 0 4)) (selIsRead (b.extractLsb' 0 4)) = b := by
  revert b
  decide

/-- The length of an XFER or QPUSH packet follows from bit 1 of SEL (R83, R93). -/
theorem packetLength_xfer (b : Byte) : packetLength opXfer b = some (if b.getLsbD 1 then 2 else 6) := rfl
theorem packetLength_qpush (b : Byte) : packetLength opQpush b = some (if b.getLsbD 1 then 2 else 6) := rfl

/-! The wire decoders, on a word that fits its field. -/

theorem decodeWire_req (c : Config) (w : BitVec 8) :
    decodeWire c { field := .req, bits := w.toNat } = decodeHeader w := by
  have h : ¬ 2 ^ 8 ≤ w.toNat := Nat.not_le.2 w.isLt
  exact (if_neg h).trans (by simp)

theorem decodeWire_ack (c : Config) (w : BitVec 3) :
    decodeWire c { field := .ack, bits := w.toNat } = .ok (.swdAck w) := by
  have h : ¬ 2 ^ 3 ≤ w.toNat := Nat.not_le.2 w.isLt
  exact (if_neg h).trans (by simp)

theorem decodeWire_data (c : Config) (w : BitVec 33) :
    decodeWire c { field := .data, bits := w.toNat } = .ok (.swdData (w.setWidth 32) (w.getLsbD 32)) := by
  have h : ¬ 2 ^ 33 ≤ w.toNat := Nat.not_le.2 w.isLt
  exact (if_neg h).trans (by simp [BitVec.testBit_toNat])

theorem decodeWire_ir (c : Config) (w : BitVec 32) (hw : w.toNat < 2 ^ c.scanIrLen) :
    decodeWire c { field := .ir, bits := w.toNat } = decodeChain c w := by
  have h : ¬ 2 ^ c.scanIrLen ≤ w.toNat := Nat.not_le.2 hw
  exact (if_neg h).trans (by simp)

theorem decodeWire_dr (c : Config) (w : BitVec 35) :
    decodeWire c { field := .dr, bits := w.toNat } = decodeScanWord w := by
  have h : ¬ 2 ^ 35 ≤ w.toNat := Nat.not_le.2 w.isLt
  exact (if_neg h).trans (by simp)

/-! Ceiling division (R14): the least q with q * b >= a. -/

theorem le_ceilDiv_mul {a b : Nat} (hb : 0 < b) : a ≤ ceilDiv a b * b := by
  unfold ceilDiv
  have := Nat.div_add_mod (a + b - 1) b
  have := Nat.mod_lt (a + b - 1) hb
  rw [Nat.mul_comm]
  omega

theorem ceilDiv_mul_lt {a b : Nat} (hb : 0 < b) : ceilDiv a b * b < a + b := by
  unfold ceilDiv
  have := Nat.div_mul_le_self (a + b - 1) b
  omega

theorem ceilDiv_le {a b q : Nat} (hb : 0 < b) (h : a ≤ q * b) : ceilDiv a b ≤ q := by
  have := ceilDiv_mul_lt (a := a) hb
  have h3 : ceilDiv a b * b < (q + 1) * b := by rw [Nat.succ_mul]; omega
  exact Nat.lt_succ_iff.1 (Nat.lt_of_mul_lt_mul_right h3)

theorem ceilDiv_pos {a b : Nat} (hb : 0 < b) (ha : 0 < a) : 0 < ceilDiv a b := by
  rcases Nat.eq_zero_or_pos (ceilDiv a b) with h | h
  · have := le_ceilDiv_mul (a := a) hb
    rw [h] at this
    omega
  · exact h

/-! A rejected packet. -/

theorem decodeTransfer_error {op : Byte} {f : Loc → Instr} {g : Loc → Word → Instr} {payload : List Byte}
    {e : DecodeError} (h : decodeTransfer op f g payload = .error e) : e.opcode = op := by
  unfold decodeTransfer at h
  split at h
  · cases h; rfl
  split at h
  · cases h; rfl
  simp only at h
  split at h <;> split at h <;> cases h <;> rfl

/-- The error names the packet's opcode byte, 0x00 for the empty packet (R85, R89). -/
theorem decodePacket_error {p : Packet} {e : DecodeError} (h : decodePacket p = .error e) :
    e.opcode = p.headD 0#8 := by
  unfold decodePacket at h
  split at h
  · cases h; rfl
  simp only [List.headD_cons]
  split at h
  · unfold decodeInfo at h; split at h <;> cases h; simp_all [DecodeError.opcode]
  split at h
  · unfold decodeConnect at h; split at h <;> cases h; simp_all [DecodeError.opcode]
  split at h
  · unfold decodeClock at h; split at h <;> cases h; simp_all [DecodeError.opcode]
  split at h
  · unfold decodeReset at h; split at h <;> cases h; simp_all [DecodeError.opcode]
  split at h
  · exact decodeTransfer_error h
  split at h
  · exact decodeTransfer_error h
  split at h
  · unfold decodeQexec at h; split at h <;> cases h; simp_all [DecodeError.opcode]
  split at h
  · unfold decodeAbort at h; split at h <;> cases h; simp_all [DecodeError.opcode]
  cases h
  rfl

end Sys2Proof.Machine
end

