-- ==== Sys2Proof/Laws/PerInstr.lean ====
section
/-!
SUPPORT. The per-instruction family CodeWidth: the code of every instruction has the length or width of its row of the
opcode table (30_encoding.md R83, R97 to R101).
-/

namespace Sys2Proof.Laws.CodeWidth

open Sys2Proof Sys2Proof.Machine

/-- A command's packet has the L of R83; a wire field's word fits its field. -/
def Statement (i : Instr) : Prop :=
  ∀ c : Config, Legal c →
    match encode c i with
    | .packet p => packetLength (p.getD 0 0#8) (p.getD 1 0#8) = some p.length
    | .wire ww => ww.bits < 2 ^ wireWidth c ww.field

theorem info : Statement .info := fun _ _ => rfl

theorem connect (disc flags : Byte) : Statement (.connect disc flags) := fun _ _ => rfl

theorem clock (freq : Word) : Statement (.clock freq) := fun _ _ => rfl

theorem reset (level : Byte) (duration : Word) : Statement (.reset level duration) := fun _ _ => rfl

theorem xferR (loc : Loc) : Statement (.xferR loc) := fun _ _ =>
  (packetLength_xfer (selByte loc true)).trans (by rw [(selByte_fields loc true).2.2]; rfl)

theorem xferW (loc : Loc) (value : Word) : Statement (.xferW loc value) := fun _ _ =>
  (packetLength_xfer (selByte loc false)).trans (by rw [(selByte_fields loc false).2.2]; rfl)

theorem qpushR (loc : Loc) : Statement (.qpushR loc) := fun _ _ =>
  (packetLength_qpush (selByte loc true)).trans (by rw [(selByte_fields loc true).2.2]; rfl)

theorem qpushW (loc : Loc) (value : Word) : Statement (.qpushW loc value) := fun _ _ =>
  (packetLength_qpush (selByte loc false)).trans (by rw [(selByte_fields loc false).2.2]; rfl)

theorem qexec : Statement .qexec := fun _ _ => rfl

theorem abort : Statement .abort := fun _ _ => rfl

theorem swdReq (sel : Sel) : Statement (.swdReq sel) := fun _ _ => (header sel).isLt

theorem swdAck (ack : BitVec 3) : Statement (.swdAck ack) := fun _ _ => ack.isLt

theorem swdData (data : Word) (par : Bool) : Statement (.swdData data par) := fun _ _ => (dataWord data par).isLt

theorem scanIr (port : PortKind) : Statement (.scanIr port) := fun _ h => by
  cases port
  · exact h.scanIrDp_lt
  · exact h.scanIrAp_lt

theorem scanDr (rnw a2 a3 : Bool) (data : Word) : Statement (.scanDr rnw a2 a3 data) := fun _ _ => BitVec.isLt _

end Sys2Proof.Laws.CodeWidth
end

