-- ==== Sys2Proof/Laws/Queue.lean ====
section
/-!
SUPPORT. The circular buffer of the Transfer Queue (10_state.md R31) seen as the list of its held entries: enqueue appends,
dequeue takes the oldest, clear empties (43_transfer_commands.md R216, R219, R220).
-/

namespace Sys2Proof.Machine

open Sys2Proof

/-- The queue's numbers are in range (R31, R32). -/
structure QueueOk (c : Config) (q : Queue) : Prop where
  slots_length : q.slots.length = c.qcap
  head_lt : q.head < c.qcap
  count_le : q.count ≤ c.qcap

theorem slotOf_lt {c : Config} {q : Queue} (h : QueueOk c q) (k : Nat) : slotOf c q k < c.qcap :=
  Nat.mod_lt _ (Nat.lt_of_le_of_lt (Nat.zero_le _) h.head_lt)

/-- Distinct logical indices of one lap are distinct slots. -/
theorem slotOf_inj {c : Config} {q : Queue} {i j : Nat} (hi : i < c.qcap) (hj : j < c.qcap)
    (h : slotOf c q i = slotOf c q j) : i = j := by
  have h' : q.head + i ≡ q.head + j [MOD c.qcap] := h
  have := Nat.ModEq.add_left_cancel' q.head h'
  rwa [Nat.ModEq, Nat.mod_eq_of_lt hi, Nat.mod_eq_of_lt hj] at this

@[simp] theorem entries_length (c : Config) (q : Queue) : (entries c q).length = q.count := by
  simp [entries]

theorem entries_nil {c : Config} {q : Queue} (h : q.count = 0) : entries c q = [] := by
  simp [entries, h]

/-- Enqueue appends to the list of entries and keeps every earlier one (R216). -/
theorem entries_enqueue {c : Config} {q : Queue} (op : Op) (h : QueueOk c q) (hroom : q.count < c.qcap) :
    entries c { q with slots := q.slots.set (slotOf c q q.count) op, count := q.count + 1 } =
      entries c q ++ [op] := by
  apply List.ext_getElem
  · simp
  · intro i h1 h2
    have hi : i < q.count + 1 := by simpa using h1
    rcases Nat.lt_or_ge i q.count with hlt | hge
    · rw [List.getElem_append_left (by simpa using hlt)]
      have hne : slotOf c q q.count ≠ slotOf c q i := fun e => by
        have := slotOf_inj hroom (Nat.lt_trans hlt hroom) e
        omega
      have hs : slotOf c { q with slots := q.slots.set (slotOf c q q.count) op, count := q.count + 1 } i =
          slotOf c q i := rfl
      simp [entries, hs, List.getD_eq_getElem?_getD, List.getElem?_set_ne hne]
    · have : i = q.count := by omega
      subst this
      have hl : slotOf c q q.count < q.slots.length := by rw [h.slots_length]; exact slotOf_lt h _
      have hs : slotOf c { q with slots := q.slots.set (slotOf c q q.count) op, count := q.count + 1 } q.count =
          slotOf c q q.count := rfl
      simp [entries, hs, List.getD_eq_getElem?_getD, hl]

/-- The oldest entry, and the entries left when it is taken out (R219). -/
theorem entries_dropOldest {s : State} (h : QueueOk s.cfg s.queue) (hpos : 0 < s.queue.count) :
    entries s.cfg s.queue = oldest s :: entries s.cfg (dropOldest s).queue := by
  have hcap : 0 < s.cfg.qcap := Nat.lt_of_le_of_lt (Nat.zero_le _) h.head_lt
  have hle := h.count_le
  apply List.ext_getElem
  · simp; omega
  · intro i h1 h2
    have hi : i < s.queue.count := by simpa using h1
    cases i with
    | zero =>
      simp [entries, slotOf, oldest, Nat.mod_eq_of_lt h.head_lt]
    | succ i =>
      have hslot : slotOf s.cfg (dropOldest s).queue i = slotOf s.cfg s.queue (i + 1) := by
        simp [slotOf, Nat.add_assoc, Nat.add_comm 1 i]
      have h0 : slotOf s.cfg s.queue 0 = s.queue.head := by
        simp [slotOf, Nat.mod_eq_of_lt h.head_lt]
      have hne : s.queue.head ≠ slotOf s.cfg s.queue (i + 1) := fun e => by
        rw [← h0] at e
        have := slotOf_inj hcap (by omega) e
        omega
      simp only [entries, List.getElem_map, List.getElem_range, List.getElem_cons_succ, hslot]
      simp [List.getD_eq_getElem?_getD, List.getElem?_set_ne hne]

/-- Taking out the oldest keeps the numbers in range. -/
theorem QueueOk.dropOldest {s : State} (h : QueueOk s.cfg s.queue) : QueueOk s.cfg (dropOldest s).queue where
  slots_length := by simp [h.slots_length]
  head_lt := by
    simpa using Nat.mod_lt _ (Nat.lt_of_le_of_lt (Nat.zero_le _) h.head_lt)
  count_le := by have := h.count_le; simp; omega

/-- A cleared queue holds nothing, and its numbers are in range (R220). -/
theorem QueueOk.clearQueue {s : State} (h : 0 < s.cfg.qcap) : QueueOk s.cfg (clearQueue s).queue where
  slots_length := by simp
  head_lt := by simpa using h
  count_le := by simp

end Sys2Proof.Machine
end

