-- ==== Sys2Proof/Laws/Retry.lean ====
section
/-!
SUPPORT. The retry loop on listed answers of the target: how it passes over WAIT acknowledgements, and how `RunOp` ends on
the first transaction that is not answered WAIT (43_transfer_commands.md R212).
-/

namespace Sys2Proof.Machine

open Sys2Proof

/-- Samples are the listed answers, in order, as long as there are enough of them (20_memory.md R72). -/
theorem targetBits_prefix {s : State} {levels rest : List Bool} {n : Nat} (h : s.wire.answers = levels ++ rest)
    (hl : levels.length = n) : targetBits n s = levels := by
  subst hl
  apply List.ext_getElem
  · simp
  · intro i h1 h2
    simp only [targetBits, List.getElem_map, List.getElem_range, h, List.getD_eq_getElem?_getD]
    rw [List.getElem?_append_left h2]
    simp [h2]

theorem nextAck_of_answers {s : State} {ack : BitVec 3} {rest : List Bool}
    (h : s.wire.answers = bitsLsbFirst ack 3 ++ rest) : nextAck s = ack := by
  rw [nextAck, targetBits_prefix h (by simp)]
  exact ofNat_natOfBits ack

/-- The value of 32 data bits with a parity bit behind them (R99). -/
theorem ofNat_natOfBits_append (v : Word) (p : Bool) :
    BitVec.ofNat 32 (natOfBits (bitsLsbFirst v 32 ++ [p])) = v := by
  apply BitVec.eq_of_getLsbD_eq
  intro i hi
  rw [BitVec.getLsbD_ofNat, natOfBits_testBit, List.getD_eq_getElem?_getD,
    List.getElem?_append_left (by simpa using hi)]
  simp [bitsLsbFirst, hi]

/-- The value of a scan read: incoming bits 3 to 34 (R101, R164). -/
theorem scan_value {low : List Bool} (v : Word) (h : low.length = 3) :
    (BitVec.ofNat 35 (natOfBits (low ++ bitsLsbFirst v 32))).extractLsb' 3 32 = v := by
  apply BitVec.eq_of_getLsbD_eq
  intro i hi
  rw [BitVec.getLsbD_extractLsb', BitVec.getLsbD_ofNat, natOfBits_testBit, List.getD_eq_getElem?_getD,
    List.getElem?_append_right (by omega)]
  have : 3 + i < 35 := by omega
  simp [bitsLsbFirst, hi, h, this]

/-- The next data phase on listed answers: OK, value and parity bit (R98, R99). -/
theorem read_data {s : State} {v : Word} {p : Bool} {rest : List Bool}
    (ha : s.wire.answers = ackOk ++ (bitsLsbFirst v 32 ++ [p]) ++ rest) :
    nextAck s = 1#3 ∧ targetBits 33 (consume 3 s) = bitsLsbFirst v 32 ++ [p] ∧ nextData s = v ∧ nextPar s = p := by
  have h1 : nextAck s = 1#3 := by
    refine nextAck_of_answers (rest := bitsLsbFirst v 32 ++ [p] ++ rest) ?_
    rw [ha, show bitsLsbFirst (1#3) 3 = ackOk from by decide]
    simp
  have h2 : targetBits 33 (consume 3 s) = bitsLsbFirst v 32 ++ [p] :=
    targetBits_prefix (rest := rest) (by simp [ha, ackOk]) (by simp)
  refine ⟨h1, h2, ?_, ?_⟩
  · rw [nextData, h2]
    exact ofNat_natOfBits_append v p
  · rw [nextPar, h2, List.getD_eq_getElem?_getD, List.getElem?_append_right (by simp)]
    simp

theorem transact_swd {sel : Sel} {wdata : Word} {s : State} (h : s.ses.disc = .swd) :
    transact sel wdata s = transactSwd sel wdata s := by
  simp [transact, h]

/-- A transaction that is not answered WAIT ends the loop, whatever retries are left. -/
theorem retryLoop_done {sel : Sel} {wdata : Word} {left : Nat} {s : State} (h : (transact sel wdata s).1 ≠ .wait) :
    retryLoop sel wdata left s = transact sel wdata s := by
  cases left <;> simp [retryLoop, h]

/-- What the WAIT transactions of the loop leave as it was; the codec is ready for the next one. -/
structure WaitFrame (s t : State) : Prop where
  cfg : t.cfg = s.cfg
  ses : t.ses = s.ses
  queue : t.queue = s.queue
  host : t.host = s.host
  field : t.wire.field = s.wire.field
  ready : codecReady t = true

/-- The loop passes over n WAIT answers, n at most the retries left: n whole WAIT transactions on the wire (R212). -/
theorem retryLoop_waits {sel : Sel} {wdata : Word} (n left : Nat) (s : State) (rest : List Bool) (hn : n ≤ left)
    (hr : codecReady s = true) (hd : s.ses.disc = .swd) (ha : s.wire.answers = waitAnswers n ++ rest) :
    ∃ t, retryLoop sel wdata left s = retryLoop sel wdata (left - n) t ∧ WaitFrame s t ∧ t.wire.answers = rest ∧
      t.wire.trace = s.wire.trace ++ waitTrace s.cfg s.ses.half sel n := by
  induction n generalizing left s with
  | zero =>
    exact ⟨s, rfl, ⟨rfl, rfl, rfl, rfl, rfl, hr⟩, by simpa [waitAnswers] using ha, by simp [waitTrace]⟩
  | succ n ih =>
    obtain ⟨left, rfl⟩ : ∃ k, left = k + 1 := ⟨left - 1, by omega⟩
    have ha' : s.wire.answers = bitsLsbFirst (2#3) 3 ++ (waitAnswers n ++ rest) := by
      rw [ha, show bitsLsbFirst (2#3) 3 = ackWait from by decide]
      simp [waitAnswers, List.replicate_succ]
    have hk : nextAck s = 2#3 := nextAck_of_answers ha'
    obtain ⟨ht, hs⟩ := transactSwd_refused (sel := sel) (wdata := wdata) hr (by rw [hk]; decide)
    have hst : (transact sel wdata s).1 = .wait := by
      rw [transact_swd hd, ht.status, hk]
      rfl
    have htb : targetBits 3 s = ackWait :=
      targetBits_prefix (rest := waitAnswers n ++ rest) (by rw [ha']; rfl) rfl
    have hred := ht.ready hr
    rw [← transact_swd hd] at ht hs hred
    obtain ⟨t, h1, h2, h3, h4⟩ := ih left (bumpRetry (transact sel wdata s).2) (by omega) hred
      (by show (transact sel wdata s).2.ses.disc = _; rw [hs, hd])
      (by show (transact sel wdata s).2.wire.answers = _; rw [ht.wire, ha']; simp [bitsLsbFirst])
    refine ⟨t, by simp [retryLoop, hst, h1], ⟨h2.cfg.trans ht.cfg, h2.ses.trans hs, h2.queue.trans ht.queue,
      h2.host.trans ht.host, h2.field.trans ?_, h2.ready⟩, h3, ?_⟩
    · show (transact sel wdata s).2.wire.field = _
      rw [ht.wire]
    · rw [h4]
      show (transact sel wdata s).2.wire.trace ++
        waitTrace (transact sel wdata s).2.cfg (transact sel wdata s).2.ses.half sel n = _
      rw [ht.wire, ht.cfg, hs, htb]
      simp [waitTrace, List.replicate_succ]

/-- `RunOp` in the scan discipline is one scan transaction (R165, R212). -/
theorem runOp_scan {sel : Sel} {wdata : Word} {s : State} (hs : s.ses.disc = .scan) :
    runOp sel wdata s =
      let u := (transactScan sel wdata (s.setWork { s.work with retry := 0#8 })).2
      (.ok, u.setWork { u.work with st := Status.ok.code }) := by
  have e : ∀ left, retryLoop sel wdata left (s.setWork { s.work with retry := 0#8 }) =
      transactScan sel wdata (s.setWork { s.work with retry := 0#8 }) := by
    intro left
    have h : transact sel wdata (s.setWork { s.work with retry := 0#8 }) =
        transactScan sel wdata (s.setWork { s.work with retry := 0#8 }) := by simp [transact, hs]
    rw [retryLoop_done (by rw [h]; simp [transactScan]), h]
  simp only [runOp, e]
  rfl

end Sys2Proof.Machine
end

