-- ==== Sys2Proof/Laws/Timing.lean ====
section
/-!
SUPPORT. The ticks of a clock cycle (40_serial_driver.md R112, R120, R124) and what is seen of a cycle that a hardware reset
cuts short (70_reset_and_hazards.md R280).
-/

namespace Sys2Proof.Machine

open Sys2Proof

section pulse

variable (dio : Option Bool) (samples : Bool) (h : Nat)

@[simp] theorem clockPhase_length (level : Bool) : (clockPhase level dio h).length = h := by simp [clockPhase]

theorem clockPulse_length : (clockPulse dio samples h).length = 2 * h := by
  cases samples <;> simp [clockPulse, markSample] <;> omega

/-- Tick k of a cycle: its clock level, whether it samples, the level driven (R112, R120). -/
theorem clockPulse_tick {k : Nat} {tick : Tick} (hk : (clockPulse dio samples h)[k]? = some tick) :
    k < 2 * h ∧ tick.clk = decide (h ≤ k) ∧ tick.sampled = (samples && decide (k + 1 = h)) ∧ tick.dio = dio := by
  have hlen : k < 2 * h := by
    by_contra hc
    rw [List.getElem?_eq_none (by rw [clockPulse_length]; omega)] at hk
    cases hk
  refine ⟨hlen, ?_⟩
  rcases Nat.lt_or_ge k h with hlt | hge
  · cases samples <;>
      simp [clockPulse, clockPhase, markSample, List.getElem?_append_left, hlt] at hk <;>
      subst hk
    · simp [hlt]
    · by_cases hs : k + 1 = h <;> simp [hs, hlt]
  · have e : (clockPulse dio samples h)[k]? = (clockPhase true dio h)[k - h]? := by
      cases samples <;> simp [clockPulse, markSample, List.getElem?_append_right, hge]
    rw [e] at hk
    simp [clockPhase, show k - h < h by omega] at hk
    subst hk
    simp [hge, show k + 1 ≠ h by omega]

/-- The clock level after k ticks of a cycle: high once the low phase has passed and a tick of the high phase has come. -/
theorem clockPulse_cut_clk {k : Nat} (hk : k ≤ 2 * h) :
    ((((clockPulse dio samples h).take k).getLast?.map Tick.clk).getD false) = decide (h < k) := by
  cases k with
  | zero => simp
  | succ k =>
    obtain ⟨tick, ht⟩ : ∃ tick, (clockPulse dio samples h)[k]? = some tick :=
      ⟨_, List.getElem?_eq_getElem (by rw [clockPulse_length]; omega)⟩
    rw [List.take_add_one, ht]
    simp [(clockPulse_tick dio samples h ht).2.1]

/-- The samples taken in the first k ticks of a cycle: one once its sample point has passed, where it has one. -/
theorem clockPulse_cut_samples (hh : 1 ≤ h) (k : Nat) :
    ((clockPulse dio samples h).take k).countP Tick.sampled = if samples = true ∧ h ≤ k then 1 else 0 := by
  induction k with
  | zero => simp; omega
  | succ k ih =>
    rw [List.take_add_one, List.countP_append, ih]
    cases ht : (clockPulse dio samples h)[k]? with
    | none =>
      rw [List.getElem?_eq_none_iff, clockPulse_length] at ht
      have h1 : h ≤ k := by omega
      have h2 : h ≤ k + 1 := by omega
      simp [h1, h2]
    | some tick =>
      have hs := (clockPulse_tick dio samples h ht).2.2.1
      cases samples
      · simp [hs]
      · by_cases hk : k + 1 = h
        · simp [hs, hk, show ¬ h ≤ k by omega]
        · by_cases hle : h ≤ k
          · simp [hs, hk, hle, show h ≤ k + 1 by omega]
          · simp [hs, hk, hle, show ¬ h ≤ k + 1 by omega]

end pulse

/-- An event with a half-period is one clock cycle of it; any other event shows no ticks (R113, R124). -/
theorem timeline_eq {e : WireEvent} {h : Nat} (he : eventHalf e = some h) :
    eventTicks e = 2 * h ∧ ∃ dio, timeline e = clockPulse dio (isSample e) h := by
  cases e <;> simp [eventHalf] at he <;> subst he <;> exact ⟨rfl, _, rfl⟩

theorem timeline_none {e : WireEvent} (he : eventHalf e = none) : timeline e = [] := by
  cases e <;> simp [eventHalf] at he <;> rfl

/-! The record of what was cut short. -/

section cut

variable (cut : ResetCut) (evs : List WireEvent) (s : State)

theorem cutShort_place : (cutShort cut evs s).place = s.wire.trace.length + (evs.take cut.events).length := by
  simp [cutShort]

theorem cutShort_flight {e : WireEvent} (he : evs[cut.events]? = some e) :
    (cutShort cut evs s).ticks = min cut.ticks (eventTicks e) ∧
      (cutShort cut evs s).shown = (timeline e).take (cutShort cut evs s).ticks := by
  simp [cutShort, he]

theorem cutShort_boundary (he : evs[cut.events]? = none) :
    (cutShort cut evs s).ticks = 0 ∧ (cutShort cut evs s).shown = [] := by
  simp [cutShort, he]

theorem cutShort_clk :
    (cutShort cut evs s).clk =
      if s.pin.clkOE then some (((cutShort cut evs s).shown.getLast?.map Tick.clk).getD false) else none := rfl

/-- The clock is left high exactly in the high phase of a cut cycle (40 R124, 70 R280). -/
theorem cutShort_high :
    (cutShort cut evs s).clk = some true ↔
      s.pin.clkOE = true ∧
        ∃ e h, evs[cut.events]? = some e ∧ eventHalf e = some h ∧ h < (cutShort cut evs s).ticks := by
  rw [cutShort_clk]
  cases hoe : s.pin.clkOE
  · simp
  · cases he : evs[cut.events]? with
    | none => simp [(cutShort_boundary cut evs s he).2]
    | some e =>
      obtain ⟨ht, hs⟩ := cutShort_flight cut evs s he
      rw [hs]
      cases hh : eventHalf e with
      | none => simp [timeline_none hh, hh]
      | some h =>
        obtain ⟨h2, dio, hl⟩ := timeline_eq hh
        rw [hl, clockPulse_cut_clk _ _ _ (by omega)]
        simp [hh]

/-- The sample of a cut cycle is taken exactly where its tick has passed (40 R120). -/
theorem cutShort_samples {e : WireEvent} {h : Nat} (he : evs[cut.events]? = some e) (hh : eventHalf e = some h)
    (hpos : 1 ≤ h) :
    (cutShort cut evs s).shown.countP Tick.sampled =
      if isSample e = true ∧ h ≤ (cutShort cut evs s).ticks then 1 else 0 := by
  obtain ⟨-, hs⟩ := cutShort_flight cut evs s he
  obtain ⟨-, dio, hl⟩ := timeline_eq hh
  rw [hs, hl, clockPulse_cut_samples _ _ _ hpos]

end cut

/-! What an abandoned command leaves (70 R280). -/

section abandon

variable {cut : ResetCut} {evs : List WireEvent} {s t : State} (htr : t.wire.trace = s.wire.trace ++ evs)

theorem abandon_cfg : (abandon cut s t).cfg = s.cfg := by simp [abandon]
theorem abandon_ses : (abandon cut s t).ses = Session.reset s.cfg := by simp [abandon]
theorem abandon_queue : (abandon cut s t).queue = Queue.reset s.cfg := by simp [abandon]
theorem abandon_pin : (abandon cut s t).pin = Pins.reset := by simp [abandon]
theorem abandon_work : (abandon cut s t).work = Work.reset := by simp [abandon]
theorem abandon_timers : (abandon cut s t).timers = Timers.reset := by simp [abandon]
theorem abandon_rspBuf : (abandon cut s t).rspBuf = [] := by simp [abandon]
theorem abandon_host : (abandon cut s t).host = { s.host with rstCut := none } := by simp [abandon]

include htr in
theorem abandon_wire :
    (abandon cut s t).wire =
      { trace := s.wire.trace ++ evs.take cut.events
        cuts := s.wire.cuts ++ [cutShort cut evs s]
        answers :=
          s.wire.answers.drop
            ((evs.take cut.events).countP isSample + (cutShort cut evs s).shown.countP Tick.sampled)
        drawn :=
          s.wire.drawn + ((evs.take cut.events).countP isSample + (cutShort cut evs s).shown.countP Tick.sampled)
        field := none } := by
  simp [abandon, htr]

end abandon

end Sys2Proof.Machine
end

