-- ==== Sys2Proof/Laws/Trace.lean ====
section
/-!
SUPPORT. The pieces of a wire trace: how long they last, which half-period their cycles have, and what they do with the
data line (40_serial_driver.md R113, R125, R127).
-/

namespace Sys2Proof.Machine

open Sys2Proof

/-! Durations. -/

@[simp] theorem traceTicks_append (a b : List WireEvent) : traceTicks (a ++ b) = traceTicks a + traceTicks b := by
  simp [traceTicks]

@[simp] theorem traceTicks_drives (h : Nat) (l : List Bool) : traceTicks (drives h l) = l.length * (2 * h) := by
  simp [traceTicks, drives, Function.comp_def, eventTicks]

@[simp] theorem traceTicks_samples (h : Nat) (l : List Bool) : traceTicks (samples h l) = l.length * (2 * h) := by
  simp [traceTicks, samples, Function.comp_def, eventTicks]

@[simp] theorem traceTicks_turns (c : Config) (h : Nat) : traceTicks (turns c h) = c.trn * (2 * h) := by
  simp [traceTicks, turns, eventTicks]

/-! Line uses. -/

theorem uses_drives (h : Nat) (l : List Bool) :
    (drives h l).filterMap lineUse = List.replicate l.length .driven := by
  simp [drives, List.filterMap_map, Function.comp_def, lineUse]

theorem uses_samples (h : Nat) (l : List Bool) :
    (samples h l).filterMap lineUse = List.replicate l.length .sampled := by
  simp [samples, List.filterMap_map, Function.comp_def, lineUse]

theorem uses_turns (c : Config) (h : Nat) : (turns c h).filterMap lineUse = List.replicate c.trn .turning := by
  unfold turns
  generalize c.trn = n
  induction n <;> simp_all [List.replicate_succ, lineUse]

theorem uses_scans (h : Nat) (outs ins : List Bool) (hl : outs.length = ins.length) :
    (scans h outs ins).filterMap lineUse = List.replicate outs.length .driven := by
  induction outs generalizing ins with
  | nil => simp [scans]
  | cons x outs ih =>
    cases ins with
    | nil => simp at hl
    | cons y ins =>
      have := ih ins (by simpa using hl)
      simpa [scans, lineUse, List.replicate_succ] using this

theorem lineRun_append (trn : Nat) (p : LineAt) (a b : List LineUse) :
    lineRun trn p (a ++ b) = (lineRun trn p a).bind fun q => lineRun trn q b := by
  induction a generalizing p with
  | nil => rfl
  | cons u us ih =>
    simp only [List.cons_append, lineRun]
    cases lineNext trn p u with
    | none => rfl
    | some q => exact ih q

/-- From rest, driven cycles leave the line driven. -/
theorem lineRun_driven {trn n : Nat} {p : LineAt} (hp : atRest trn p = true) (hn : 0 < n) :
    lineRun trn p (List.replicate n .driven) = some .driving := by
  have d : ∀ m, lineRun trn .driving (List.replicate m .driven) = some .driving := by
    intro m
    induction m with
    | zero => rfl
    | succ m ih => simpa [List.replicate_succ, lineRun, lineNext] using ih
  cases n with
  | zero => omega
  | succ n => cases p <;> simp_all [atRest, List.replicate_succ, lineRun, lineNext]

/-- A whole turnaround after driving, then samples. -/
theorem lineRun_turn_sampled {trn n : Nat} (ht : 0 < trn) (hn : 0 < n) :
    lineRun trn .driving (List.replicate trn .turning ++ List.replicate n .sampled) = some .sampling := by
  have s : ∀ m, lineRun trn .sampling (List.replicate m .sampled) = some .sampling := by
    intro m
    induction m with
    | zero => rfl
    | succ m ih => simpa [List.replicate_succ, lineRun, lineNext] using ih
  have t : ∀ m k, k + m = trn → lineRun trn (.toSample k) (List.replicate m .turning) = some (.toSample trn) := by
    intro m
    induction m with
    | zero => intro k hk; simp at hk; simp [lineRun, hk]
    | succ m ih =>
      intro k hk
      simp only [List.replicate_succ, lineRun, lineNext]
      rw [if_pos (by omega)]
      exact ih (k + 1) (by omega)
  obtain ⟨m, rfl⟩ : ∃ m, trn = m + 1 := ⟨trn - 1, by omega⟩
  obtain ⟨n, rfl⟩ : ∃ m, n = m + 1 := ⟨n - 1, by omega⟩
  rw [lineRun_append, List.replicate_succ, lineRun]
  simp only [lineNext]
  rw [t m 1 (by omega)]
  simp [List.replicate_succ, lineRun, lineNext, s]

/-- A whole turnaround after sampling gives the line back. -/
theorem lineRun_turn_back {trn : Nat} (ht : 0 < trn) :
    lineRun trn .sampling (List.replicate trn .turning) = some (.toDrive trn) := by
  have t : ∀ m k, k + m = trn → lineRun trn (.toDrive k) (List.replicate m .turning) = some (.toDrive trn) := by
    intro m
    induction m with
    | zero => intro k hk; simp at hk; simp [lineRun, hk]
    | succ m ih =>
      intro k hk
      simp only [List.replicate_succ, lineRun, lineNext]
      rw [if_pos (by omega)]
      exact ih (k + 1) (by omega)
  obtain ⟨m, rfl⟩ : ∃ m, trn = m + 1 := ⟨trn - 1, by omega⟩
  rw [List.replicate_succ, lineRun]
  simp only [lineNext]
  exact t m 1 (by omega)

/-! Half-periods. -/

theorem half_drives {h : Nat} {l : List Bool} : ∀ e ∈ drives h l, eventHalf e = some h := by
  intro e he
  obtain ⟨b, -, rfl⟩ := List.mem_map.1 he
  rfl

theorem half_samples {h : Nat} {l : List Bool} : ∀ e ∈ samples h l, eventHalf e = some h := by
  intro e he
  obtain ⟨b, -, rfl⟩ := List.mem_map.1 he
  rfl

theorem half_turns {c : Config} {h : Nat} : ∀ e ∈ turns c h, eventHalf e = some h := by
  intro e he
  rw [turns, List.mem_replicate] at he
  rw [he.2]
  rfl

theorem half_scans {h : Nat} {outs ins : List Bool} : ∀ e ∈ scans h outs ins, eventHalf e = some h := by
  intro e he
  rw [scans, List.mem_iff_getElem] at he
  obtain ⟨k, hk, rfl⟩ := he
  simp [eventHalf]

end Sys2Proof.Machine
end

