-- ==== Sys2Proof/Laws/Transfer.lean ====
section
/-!
SUPPORT. What one round of the drain loop of QEXEC does: an Operation run, counted and recorded, or dropped after a stop
(43_transfer_commands.md R222 to R225).
-/

namespace Sys2Proof.Machine

open Sys2Proof

/-- What running one dequeued Operation does: its status `st`, the value `v` of its record, its wire events. -/
structure EntryRan (s t : State) (sel : Sel) (st : Status) (v : Word) (evs : List WireEvent) : Prop where
  cfg : t.cfg = s.cfg
  ses : t.ses =
    { s.ses with
      irState := t.ses.irState
      errCnt := if st.counted then satInc s.ses.errCnt else s.ses.errCnt }
  queue : t.queue = s.queue
  pin : t.pin = drivenLow
  rspBuf : t.rspBuf = s.rspBuf ++ resultBytes sel st v
  host : t.host = s.host
  field : t.wire.field = s.wire.field
  trace : t.wire.trace = s.wire.trace ++ evs
  op : t.work.op = s.work.op
  total : t.work.total = s.work.total
  idx : t.work.idx = s.work.idx + 1#8
  executed : t.work.executed = s.work.executed + 1#8
  stopped : t.work.stopped = (s.work.stopped || (s.ses.aoe && st.stops))
  failidx : t.work.failidx = if s.ses.aoe && st.stops then s.work.idx else s.work.failidx
  bstatus : t.work.bstatus = if s.ses.aoe && st.stops then st.code else s.work.bstatus
  h : t.work.h = s.ses.half
  phase : t.timers.phaseCnt ≤ halfMax s.cfg

theorem appendRecord_rspBuf (bytes : List Byte) (s : State) : (appendRecord bytes s).rspBuf = s.rspBuf ++ bytes := rfl

theorem stopRule_eq (st : Status) (s : State) :
    stopRule st s =
      s.setWork
        { s.work with
          stopped := s.work.stopped || (s.ses.aoe && st.stops)
          failidx := if s.ses.aoe && st.stops then s.work.idx else s.work.failidx
          bstatus := if s.ses.aoe && st.stops then st.code else s.work.bstatus } := by
  unfold stopRule
  cases h : s.ses.aoe && st.stops <;> simp_all [State.setWork]

/-! The result slot (R30): what is written into it, and the record read from it (R229). -/

@[simp] theorem fillResult_sel (st : Status) (v : Word) (e : Op) : (fillResult st v e).sel = e.sel := rfl
@[simp] theorem fillResult_wdata (st : Status) (v : Word) (e : Op) : (fillResult st v e).wdata = e.wdata := rfl
@[simp] theorem fillResult_rvalue (st : Status) (v : Word) (e : Op) : (fillResult st v e).rvalue = v := rfl
@[simp] theorem fillResult_status (st : Status) (v : Word) (e : Op) : (fillResult st v e).status = st.code := rfl
@[simp] theorem markNotExecuted_sel (e : Op) : (markNotExecuted e).sel = e.sel := rfl
@[simp] theorem markNotExecuted_wdata (e : Op) : (markNotExecuted e).wdata = e.wdata := rfl
@[simp] theorem markNotExecuted_rvalue (e : Op) : (markNotExecuted e).rvalue = e.rvalue := rfl
@[simp] theorem markNotExecuted_status (e : Op) : (markNotExecuted e).status = Status.notExecuted.code := rfl

theorem code_eq_ok_iff {st : Status} : st.code = Status.ok.code ↔ st = .ok := by
  cases st <;> decide

/-- The record of an executed Operation holds its status, and its value exactly for a read that ended OK. -/
theorem recordOf_fillResult (st : Status) (v : Word) (e : Op) :
    recordOf (fillResult st v e) = resultBytes e.sel st v := by
  simp only [recordOf, resultBytes, fillResult_sel, fillResult_status, fillResult_rvalue, code_eq_ok_iff]

@[simp] theorem recordOf_markNotExecuted (e : Op) : recordOf (markNotExecuted e) = [Status.notExecuted.code] := by
  simp [recordOf, code_eq_ok_iff]

theorem resultBytes_opValue (sel : Sel) (st : Status) (s : State) :
    resultBytes sel st (opValue sel st s) = resultBytes sel st s.work.rdata := by
  unfold resultBytes opValue
  split <;> simp_all

/-- Everything running one Operation of the queue can do (R222). -/
theorem runEntry_spec {e : Op} {s : State} (hr : codecReady s = true) :
    ∃ st v evs, EntryRan s (runEntry e s) e.sel st v evs ∧ runOpStatus s.cfg s.ses.disc (selIsRead e.sel) st ∧
      opOnWire s.cfg s.ses.half s.ses.irState e.sel e.wdata s.cfg.waitRetryMax st v evs s.ses.disc ∧
      (s.ses.disc = .swd → (runEntry e s).ses.irState = s.ses.irState) ∧
      (s.ses.disc = .scan → (runEntry e s).ses.irState = irOf (selPort e.sel)) := by
  obtain ⟨st, evs, k, ht, hst, hw, hswd, hscan⟩ := runOp_spec (sel := e.sel) (wdata := e.wdata) hr
  have hir : (runEntry e s).ses.irState = (runOp e.sel e.wdata s).2.ses.irState := by
    simp [runEntry, stopRule_eq, appendRecord]
  refine ⟨st, (runOp e.sel e.wdata s).2.work.rdata, evs, ?_, hst, hw, fun h => by rw [hir, hswd h],
    fun h => by rw [hir, hscan h]⟩
  have hses := ht.ses
  unfold runEntry
  generalize runOp e.sel e.wdata s = r at *
  simp only [stopRule_eq, recordOf_fillResult, resultBytes_opValue]
  constructor <;>
    simp [appendRecord, ht.status, ht.cfg, ht.queue, ht.pin, ht.rspBuf, ht.host, ht.wire, ht.work.op, ht.work.total,
      ht.work.idx, ht.work.executed, ht.work.stopped, ht.work.failidx, ht.work.bstatus, ht.h, ht.phase] <;>
    rw [hses]
  simp

/-- A round after the batch has stopped: the oldest entry is dropped with the record NOT_EXECUTED (R222, R225). -/
theorem drainOne_stopped {s : State} (h : s.work.stopped = true) :
    drainOne s = appendRecord [Status.notExecuted.code] (dropOldest s) := by
  simp [drainOne, h]

/-- A round before it has: the oldest entry is run (R222). -/
theorem drainOne_running {s : State} (h : s.work.stopped = false) :
    drainOne s = runEntry (oldest s) (dropOldest s) := by
  simp [drainOne, h]

/-! The whole drain. -/

/-- What draining the queue of `u` does: one result and one stretch of the trace per entry; before a stop each entry is
run, after it each is NOT_EXECUTED; the working registers of the header; all it leaves alone (R222 to R225). -/
structure Drained (u t : State) (rs : List (Status × Word)) (evs : List (List WireEvent)) : Prop where
  cfg : t.cfg = u.cfg
  rs_length : rs.length = u.queue.count
  evs_length : evs.length = u.queue.count
  rspBuf : t.rspBuf = u.rspBuf ++ batchRecords (entries u.cfg u.queue) rs
  trace : t.wire.trace = u.wire.trace ++ evs.flatten
  field : t.wire.field = u.wire.field
  host : t.host = u.host
  ses : t.ses =
    { u.ses with
      irState := t.ses.irState
      errCnt := satInc^[(rs.map Prod.fst).countP Status.counted] u.ses.errCnt }
  count : t.queue.count = 0
  queueOk : QueueOk t.cfg t.queue
  pin : t.pin = if u.queue.count = 0 then u.pin else drivenLow
  total : t.work.total = u.work.total
  stopped : u.work.stopped = true →
    (∀ r ∈ rs, r.1 = .notExecuted) ∧ (∀ e ∈ evs, e = []) ∧ t.work.executed = u.work.executed ∧
      t.work.failidx = u.work.failidx ∧ t.work.bstatus = u.work.bstatus
  running : u.work.stopped = false →
    (match stopIndex u.ses.aoe (rs.map Prod.fst) with
      | none =>
        t.work.executed = u.work.executed + BitVec.ofNat 8 rs.length ∧ t.work.failidx = u.work.failidx ∧
          t.work.bstatus = u.work.bstatus
      | some k =>
        t.work.executed = u.work.executed + BitVec.ofNat 8 (k + 1) ∧
          t.work.failidx = u.work.idx + BitVec.ofNat 8 k ∧
          t.work.bstatus = ((rs.map Prod.fst).getD k .ok).code) ∧
    ∀ (k : Nat) (e : Op) (r : Status × Word) (ev : List WireEvent), (entries u.cfg u.queue)[k]? = some e →
      rs[k]? = some r → evs[k]? = some ev →
      (r.1 = .notExecuted ↔ ∃ j, stopIndex u.ses.aoe (rs.map Prod.fst) = some j ∧ j < k) ∧
        (r.1 = .notExecuted → ev = []) ∧
        (r.1 ≠ .notExecuted → runOpStatus u.cfg u.ses.disc (selIsRead e.sel) r.1) ∧
        (r.1 ≠ .notExecuted →
          opOnWire u.cfg u.ses.half (irAfter u.ses.irState ((entries u.cfg u.queue).take k)) e.sel e.wdata
            u.cfg.waitRetryMax r.1 r.2 ev u.ses.disc)
  irSwd : u.ses.disc = .swd → t.ses.irState = u.ses.irState
  irScan : u.ses.disc = .scan →
    t.ses.irState = if u.work.stopped then u.ses.irState else irAfter u.ses.irState (entries u.cfg u.queue)
  shape : ∀ ev ∈ evs,
    ev = [] ∨ ∃ ir sel wd st v, opOnWire u.cfg u.ses.half ir sel wd u.cfg.waitRetryMax st v ev u.ses.disc
  latched : u.work.h ≤ halfMax u.cfg → u.ses.half ≤ halfMax u.cfg → t.work.h ≤ halfMax u.cfg
  phase : u.timers.phaseCnt ≤ halfMax u.cfg → t.timers.phaseCnt ≤ halfMax u.cfg

theorem stopIndex_cons (aoe : Bool) (st : Status) (sts : List Status) :
    stopIndex aoe (st :: sts) = if aoe && st.stops then some 0 else (stopIndex aoe sts).map (· + 1) := by
  cases aoe <;> simp [stopIndex, List.findIdx?_cons]

@[simp] theorem irAfter_nil (ir : IrState) : irAfter ir [] = ir := rfl

theorem irAfter_cons (ir : IrState) (e : Op) (es : List Op) : irAfter ir (e :: es) = irAfter (irOf (selPort e.sel)) es := by
  cases es using List.reverseRecOn with
  | nil => rfl
  | append_singleton es x _ => rw [irAfter, irAfter, ← List.cons_append, List.getLast?_concat, List.getLast?_concat]

/-- S.IR_STATE matters to the wire in the scan discipline only (R160, R161). -/
theorem opOnWire_ir {c : Config} {h : Nat} {ir ir2 : IrState} {sel : Sel} {wd : Word} {n : Nat} {st : Status} {v : Word}
    {evs : List WireEvent} {d : Disc} (hw : opOnWire c h ir sel wd n st v evs d) (hir : d = .scan → ir2 = ir) :
    opOnWire c h ir2 sel wd n st v evs d := by
  cases d with
  | none => exact hw
  | swd => exact hw
  | scan => rw [hir rfl]; exact hw

/-- Everything the drain can do, from the stopped and from the running state (R222). -/
theorem drain_spec (n : Nat) (u : State) (hn : u.queue.count = n) (hq : QueueOk u.cfg u.queue)
    (hr : n = 0 ∨ codecReady u = true) (hp : u.work.stopped = true → u.pin = drivenLow) :
    ∃ rs evs, Drained u (drain n u) rs evs := by
  induction n generalizing u with
  | zero =>
    refine ⟨[], [], ⟨rfl, by simp [hn], by simp [hn], by simp [drain, batchRecords], by simp [drain], rfl, rfl,
      by simp [drain], hn, hq, by simp [hn, drain], rfl, by simp [drain], ?_, fun _ => rfl, ?_, by simp, fun h _ => h,
      fun h => h⟩⟩
    · intro _
      simp [stopIndex, drain]
    · intro _
      simp [entries_nil hn, drain]
  | succ n ih =>
    have hr : codecReady u = true := by simpa using hr
    have hpos : 0 < u.queue.count := by omega
    have hes := entries_dropOldest hq hpos
    have hq2 := hq.dropOldest
    by_cases hs : u.work.stopped = true
    · let w := appendRecord [Status.notExecuted.code] (dropOldest u)
      have e : drain (n+1) u = drain n w := by simp only [drain, drainOne_stopped hs, w]
      obtain ⟨rs, evs, h⟩ := ih w (by simp [w, appendRecord, hn]) hq2 (Or.inr hr) (fun _ => hp hs)
      have hst := h.stopped hs
      refine ⟨(.notExecuted, 0#32) :: rs, [] :: evs, ?_⟩
      rw [e]
      have hsw : w.work.stopped = true := hs
      refine ⟨h.cfg, ?_, ?_, ?_, ?_, h.field, h.host, ?_, h.count, h.queueOk, ?_, h.total, ?_, ?_, h.irSwd, ?_, ?_,
        h.latched, h.phase⟩
      · simp [h.rs_length, w, appendRecord]; omega
      · simp [h.evs_length, w, appendRecord]; omega
      · rw [h.rspBuf, hes]; simp [batchRecords, w, appendRecord, resultBytes, dropOldest_cfg]
      · rw [h.trace]; simp [w, appendRecord]
      · rw [h.ses]; simp [w, appendRecord, Status.counted]
      · have hz : ¬ u.queue.count = 0 := by omega
        rw [h.pin, if_neg hz]; split
        · exact hp hs
        · rfl
      · intro _; refine ⟨?_, ?_, hst.2.2⟩
        · intro r hr; rcases List.mem_cons.1 hr with rfl | hr; rfl; exact hst.1 r hr
        · intro r hr; rcases List.mem_cons.1 hr with rfl | hr; rfl; exact hst.2.1 r hr
      · intro h; rw [hs] at h; cases h
      · intro hd
        rw [h.irScan hd, if_pos hsw, if_pos hs]
        rfl
      · intro ev hev; rcases List.mem_cons.1 hev with rfl | hev; exact Or.inl rfl; exact h.shape ev hev
    · have hs : u.work.stopped = false := by simpa using hs
      have e : drain (n+1) u = drain n (runEntry (oldest u) (dropOldest u)) := by simp only [drain, drainOne_running hs]
      have hr2 : codecReady (dropOldest u) = true := hr
      obtain ⟨st, v, evs0, hran, hst, hw, hswd, hscan⟩ := runEntry_spec (e := oldest u) hr2
      generalize runEntry (oldest u) (dropOldest u) = w at *
      have hqw : QueueOk w.cfg w.queue := by rw [hran.cfg, hran.queue]; exact hq2
      have hrw : codecReady w = true := by
        rw [codecReady_iff] at hr ⊢
        rw [hran.ses, hran.pin, hran.cfg]; exact ⟨hr.1, rfl, rfl, rfl, hr.2.2.2.2⟩
      obtain ⟨rs, evs, h⟩ := ih w (by rw [hran.queue]; simp [hn]) hqw (Or.inr hrw) (fun _ => hran.pin)
      have wcfg : w.cfg = u.cfg := hran.cfg
      have wq : w.queue = (dropOldest u).queue := hran.queue
      have wses : w.ses = _ := hran.ses
      simp only [dropOldest_ses] at wses
      have waoe : w.ses.aoe = u.ses.aoe := by rw [wses]
      have wdisc : w.ses.disc = u.ses.disc := by rw [wses]
      have whalf : w.ses.half = u.ses.half := by rw [wses]
      simp only [dropOldest_cfg, dropOldest_ses] at hst hw hswd hscan
      refine ⟨(st, v) :: rs, evs0 :: evs, ?_⟩
      rw [e]
      refine ⟨h.cfg.trans wcfg, ?_, ?_, ?_, ?_, h.field.trans hran.field, h.host.trans hran.host, ?_, h.count,
        h.queueOk, ?_, h.total.trans hran.total, ?_, ?_, ?_, ?_, ?_, ?_, ?_⟩
      · simp [h.rs_length, wq]; omega
      · simp [h.evs_length, wq]; omega
      · rw [h.rspBuf, hes, hran.rspBuf, wcfg, wq]; simp [batchRecords]
      · rw [h.trace, hran.trace]; simp
      · have := h.ses
        rw [wses] at this
        rw [this]
        cases hc : st.counted <;> simp [hc, Function.iterate_succ_apply]
      · have hz : ¬ u.queue.count = 0 := by omega
        rw [h.pin, if_neg hz]; split
        · exact hran.pin
        · rfl
      · intro h; rw [hs] at h; cases h
      · intro _
        have hstop : w.work.stopped = (u.ses.aoe && st.stops) := by rw [hran.stopped]; simp [hs]
        have hex := hran.executed; have hfi := hran.failidx; have hbs := hran.bstatus; have hidx := hran.idx
        simp only [dropOldest_work, dropOldest_ses] at hex hfi hbs hidx
        have hne : st ≠ .notExecuted := by rintro rfl; exact hst
        cases hb : (u.ses.aoe && st.stops)
        · rw [hb] at hstop
          obtain ⟨g1, g2⟩ := h.running hstop
          simp only [List.map_cons, stopIndex_cons, hb]
          rw [waoe] at g1 g2
          simp only [hb, Bool.false_eq_true, if_false] at hfi hbs
          constructor
          · revert g1
            cases hsi : stopIndex u.ses.aoe (rs.map Prod.fst) with
            | none =>
              simp only [Bool.false_eq_true, if_false, Option.map_none]
              rintro ⟨a, b, c⟩
              refine ⟨?_, b.trans hfi, c.trans hbs⟩
              rw [a, hex, List.length_cons]; simp [BitVec.ofNat_add, BitVec.add_assoc, BitVec.add_comm]
            | some k =>
              simp only [Bool.false_eq_true, if_false, Option.map_some]
              rintro ⟨a, b, c⟩
              refine ⟨?_, ?_, ?_⟩
              · rw [a, hex, BitVec.add_assoc, ← BitVec.ofNat_add]; congr 2; omega
              · rw [b, hidx, BitVec.add_assoc, ← BitVec.ofNat_add]; congr 2; omega
              · rw [c]; simp
          · intro k e r ev he hr hev
            rw [hes] at he
            cases k with
            | zero =>
              simp at he hr hev
              subst he hr hev
              simp [hne, hst, hw]
            | succ k =>
              simp at he hr hev
              rw [wcfg, wq] at g2
              obtain ⟨a, b, c, d⟩ := g2 k e r ev he hr hev
              rw [whalf, wdisc] at d
              rw [wdisc] at c
              refine ⟨?_, b, c, fun hn => opOnWire_ir (d hn) fun hd => ?_⟩
              swap
              · rw [hes, List.take_succ_cons, irAfter_cons, hscan hd]
              rw [a]; cases stopIndex u.ses.aoe (rs.map Prod.fst) <;> simp
        · rw [hb] at hstop
          obtain ⟨g1, g2, g3, g4, g5⟩ := h.stopped hstop
          simp only [hb, if_true] at hfi hbs
          simp only [List.map_cons, stopIndex_cons, hb, if_true]
          refine ⟨⟨by rw [g3, hex], by rw [g4, hfi]; simp, by rw [g5, hbs]; rfl⟩, ?_⟩
          intro k e r ev he hr hev
          rw [hes] at he
          cases k with
          | zero =>
            simp at he hr hev
            subst he hr hev
            simp [hne, hst, hw]
          | succ k =>
            simp at he hr hev
            have hr1 := g1 r (List.mem_of_getElem? hr)
            have he1 := g2 ev (List.mem_of_getElem? hev)
            simp [hr1, he1]
      · intro hd
        rw [h.irSwd (wdisc.trans hd), hswd hd]
      · intro hd
        have hok : st = .ok := by
          rw [hd] at hw
          exact hw.1
        have hns : w.work.stopped = false := by rw [hran.stopped, hok]; simp [hs, Status.stops]
        rw [h.irScan (wdisc.trans hd), hns, hs, hes, hscan hd, wcfg, wq]
        simp [irAfter_cons]
      · intro ev hev; rcases List.mem_cons.1 hev with rfl | hev
        · exact Or.inr ⟨_, _, _, _, _, hw⟩
        · have := h.shape ev hev; rwa [wcfg, whalf, wdisc] at this
      · intro h1 h2
        have := h.latched
        rw [wcfg] at this
        exact this (by rw [hran.h]; exact h2) (by rw [whalf]; exact h2)
      · intro _; have := h.phase; rw [wcfg] at this; exact this hran.phase

end Sys2Proof.Machine
end

