-- ==== Sys2Proof/Tests/Slice0.lean ====
section
/-!
SUPPORT. Tests. The expected values are the vectors of spec/95_test_vectors.md (cited by number) and the tables of
spec/30_encoding.md. First the ill-formed terms, then one word per constructor written out from its encoding, then single
steps, then for every statement with hypotheses a concrete state and operands that meet them.
-/

namespace Sys2Proof.Tests

open Sys2Proof Sys2Proof.Machine

/-! Helpers. -/

/-- A state of discipline `d` as the vectors of 95 start from: S.HALF 24, lines driven, nothing queued. -/
def conn (d : Disc) (aoe : Bool) : State :=
  (State.reset.setSes { State.reset.ses with half := 24, disc := d, aoe := aoe, dstate := .connected }).setPin drivenLow

/-- The state with the target's next levels listed. -/
def answered (levels : List Bool) (s : State) : State :=
  s.setWire { s.wire with answers := levels }

/-- The state with n copies of an Operation queued. -/
def queued (n : Nat) (sel : Sel) (s : State) : State :=
  (s.setQueue { slots := List.replicate 8 { Op.reset with sel := sel }, head := 0, count := n }).setSes
    { s.ses with dstate := if n = 0 then s.ses.dstate else .queuing }

/-- The state with packets on offer. -/
def offered (ps : List Packet) (s : State) : State :=
  s.setHost { s.host with cmdIn := ps }

def rsp : Result → Option Packet
  | .next t => some t.rspBuf
  | .fault _ => none
  | .refused _ => none

def ses : Result → Option Session
  | .next t => some t.ses
  | .fault _ => none
  | .refused _ => none

def trace : Result → Option (List WireEvent)
  | .next t => some t.wire.trace
  | .fault _ => none
  | .refused _ => none

def cuts : Result → Option (List CutShort)
  | .next t => some t.wire.cuts
  | .fault _ => none
  | .refused _ => none

def drawn : Result → Option Nat
  | .next t => some t.wire.drawn
  | .fault _ => none
  | .refused _ => none

/-- D and S events at half-period 24 from 0/1 strings. -/
def dd (bits : List Nat) : List WireEvent := bits.map fun b => .drive (b == 1) 24
def ss (bits : List Nat) : List WireEvent := bits.map fun b => .sample (b == 1) 24
def xx (pairs : List (Nat × Nat)) : List WireEvent := pairs.map fun p => .scan (p.1 == 1) (p.2 == 1) 24

/-- The levels of a value and a parity bit, bit 0 first. -/
def levels (v : Word) (par : Bool) : List Bool := bitsLsbFirst v 32 ++ [par]

/-! WellFormed: an ill-formed term for each check. -/

theorem test_ill_formed_connect_disc_zero : (Instr.connect 0x00 0x00).wellFormed = false := by decide
theorem test_ill_formed_connect_disc_three : (Instr.connect 0x03 0x00).wellFormed = false := by decide
theorem test_ill_formed_connect_flags : (Instr.connect 0x01 0x02).wellFormed = false := by decide
theorem test_ill_formed_connect_flags_top : (Instr.connect 0x01 0x80).wellFormed = false := by decide
theorem test_ill_formed_reset_level : (Instr.reset 0x02 0).wellFormed = false := by decide
theorem test_ill_formed_scan_read_data : (Instr.scanDr true false false 1).wellFormed = false := by decide
theorem test_well_formed_scan_write : (Instr.scanDr false false false 1).wellFormed = true := by decide

/-! Decoding: words written out from R81, R92 and R97 to R101. -/

theorem test_decode_info : decodePacket [0x01] = .ok .info := by decide
theorem test_decode_connect : decodePacket [0x02, 0x02, 0x01] = .ok (.connect 0x02 0x01) := by decide
theorem test_decode_clock : decodePacket [0x03, 0xC0, 0xCF, 0x6A, 0x00] = .ok (.clock 7000000) := by decide
theorem test_decode_reset : decodePacket [0x04, 0x01, 0x0A, 0x00, 0x00, 0x80] = .ok (.reset 0x01 0x8000000A) := by
  decide
/-- SEL 0b1011: A3 A2 = 10, RnW = 1, AP (R92). -/
theorem test_decode_xferR : decodePacket [0x05, 0b00001011] = .ok (.xferR { port := .ap, addr := 2 }) := by decide
theorem test_decode_xferW :
    decodePacket [0x05, 0b00001000, 0x0D, 0xF0, 0xFE, 0xCA] = .ok (.xferW { port := .dp, addr := 2 } 0xCAFEF00D) := by
  decide
theorem test_decode_qpushR : decodePacket [0x06, 0b00001111] = .ok (.qpushR { port := .ap, addr := 3 }) := by decide
theorem test_decode_qpushW :
    decodePacket [0x06, 0b00000101, 0x00, 0x00, 0x00, 0x20] = .ok (.qpushW { port := .ap, addr := 1 } 0x20000000) := by
  decide
theorem test_decode_qexec : decodePacket [0x07] = .ok .qexec := by decide
theorem test_decode_abort : decodePacket [0x08] = .ok .abort := by decide
/-- 95 section 3, sel 0xB: header 0xB7. -/
theorem test_decode_swdReq : decodeTableWord 8 0b10110111 = some (.swdReq 0xB) := by decide
theorem test_decode_swdAck : decodeTableWord 3 0b100 = some (.swdAck 0b100) := by decide
theorem test_decode_swdData : decodeTableWord 33 0x1DEADBEEF = some (.swdData 0xDEADBEEF true) := by decide
theorem test_decode_scanIr : decodeTableWord 4 0b1011 = some (.scanIr .ap) := by decide
/-- Bit 0 RnW = 0, bit 1 A2 = 0, bit 2 A3 = 1, data from bit 3 (R101). -/
theorem test_decode_scanDr : decodeTableWord 35 (0xF0 * 8 + 0b100) = some (.scanDr false false true 0xF0) := by decide

/-! Decoding refuses by name (95 section 9.1). -/

theorem test_refuse_empty : decodePacket [] = .error .emptyPacket := by decide
theorem test_refuse_opcode : decodePacket [0x09] = .error (.unknownOpcode 0x09) := by decide
theorem test_refuse_sel : decodePacket [0x05, 0x12] = .error (.reservedSel 0x05) := by decide
theorem test_refuse_no_sel : decodePacket [0x06] = .error (.missingSel 0x06) := by decide
theorem test_refuse_read_value : decodePacket [0x05, 0x02, 0x00] = .error (.wrongLength 0x05) := by decide
theorem test_refuse_write_short : decodePacket [0x05, 0x00, 1, 2, 3] = .error (.wrongLength 0x05) := by decide
theorem test_refuse_header_parity : decodeHeader 0x83 = .error .headerParity := by decide
theorem test_refuse_header_park : decodeHeader 0x01 = .error .headerFraming := by decide
theorem test_refuse_chain : decodeChain Config.cfgEx 0 = .error .unknownChain := by decide
theorem test_refuse_scan_read_data : decodeScanWord 0b1001 = .error .readWordWithData := by decide
theorem test_refuse_wire_wide : decodeWire Config.cfgEx { field := .ack, bits := 8 } = .error .wireTooWide := by decide

/-! The opcode table's words run as the first instruction after reset. -/

theorem test_fetch_info : rsp (step (State.reset.withFetchWord 8 0x01)) =
    some [0x01, 0x00, 0x01, 0x03, 0x08, 0x02, 0x00, 0x36, 0x6E, 0x01, 0x6F, 0x01, 0x00, 0x00] := by decide
theorem test_fetch_req : trace (step (State.reset.withFetchWord 8 0xA5)) =
    some ([1, 0, 1, 0, 0, 1, 0, 1].map fun b => .drive (b == 1) 65535) := by decide
/-- Nothing placed: the machine waits in the reset state (log entry 7). -/
theorem test_reset_waits : step State.reset = .next State.reset := rfl

/-! Session commands (95 section 8). -/

theorem test_info : rsp (exec .info State.reset) =
    some [0x01, 0x00, 0x01, 0x03, 0x08, 0x02, 0x00, 0x36, 0x6E, 0x01, 0x6F, 0x01, 0x00, 0x00] := by decide

theorem test_connect_clears :
    let s := (conn .swd false).setSes { (conn .swd false).ses with errCnt := 0xFFFF, ovrCnt := 0x0102 }
    rsp (exec (.connect 0x02 0x00) s) = some [0x02, 0x00, 0xFF, 0xFF, 0x02, 0x01] ∧
      ses (exec (.connect 0x02 0x00) s) = some (conn .scan false).ses := by decide
theorem test_connect_in_queuing :
    rsp (exec (.connect 0x01 0x00) (queued 8 0 (conn .swd false))) = some [0x02, 0x09] := by decide

theorem test_clock_rounds_down :
    rsp (exec (.clock 7000000) State.reset) = some [0x03, 0x00, 0x80, 0x8D, 0x5B, 0x00] ∧
      ses (exec (.clock 7000000) State.reset) = some { State.reset.ses with half := 4 } := by decide
theorem test_clock_limits :
    rsp (exec (.clock 366) State.reset) = some [0x03, 0x07] ∧
      rsp (exec (.clock 367) State.reset) = some [0x03, 0x00, 0x6E, 0x01, 0x00, 0x00] ∧
      rsp (exec (.clock 4294967295) State.reset) = some [0x03, 0x00, 0x00, 0x36, 0x6E, 0x01] := by decide

theorem test_reset_timed :
    trace (exec (.reset 0x01 0xFFFFFFFF) State.reset) =
        some [.resetLine true, .hold 206158430160, .resetLine false] ∧
      rsp (exec (.reset 0x01 0xFFFFFFFF) State.reset) = some [0x04, 0x00, 0x00] := by decide
theorem test_reset_untimed :
    rsp (exec (.reset 0x01 0) State.reset) = some [0x04, 0x00, 0x01] ∧
      rsp (exec (.reset 0x02 0) State.reset) = some [0x04, 0x07] := by decide

theorem test_abort :
    let s := (queued 3 0 (conn .swd true)).setSes { (queued 3 0 (conn .swd true)).ses with errCnt := 2, ovrCnt := 1 }
    rsp (exec .abort s) = some [0x08, 0x00, 0x02, 0x00, 0x01, 0x00] ∧
      ses (exec .abort s) = some { State.reset.ses with half := 24, aoe := true } := by decide

/-! Transfers (95 sections 6, 7 and 10). -/

/-- Vectors 6.1 and 10.1. -/
theorem test_xferR :
    let s := answered (ackOk ++ levels 0x0BC12477 false) (conn .swd false)
    rsp (exec (.xferR { port := .dp, addr := 0 }) s) = some [0x05, 0x00, 0x77, 0x24, 0xC1, 0x0B] ∧
      trace (exec (.xferR { port := .dp, addr := 0 }) s) =
        some
          (dd [1, 0, 1, 0, 0, 1, 0, 1] ++ [.turn 24] ++ ss [1, 0, 0] ++ ss [1, 1, 1, 0, 1, 1, 1, 0] ++
            ss [0, 0, 1, 0, 0, 1, 0, 0] ++ ss [1, 0, 0, 0, 0, 0, 1, 1] ++ ss [1, 1, 0, 1, 0, 0, 0, 0] ++ ss [0] ++
            [.turn 24]) := by decide
/-- Vector 10.4: three WAIT acknowledgements with WAIT_RETRY_MAX = 2. -/
theorem test_xferR_timeout :
    let s := answered (waitAnswers 3) (conn .swd false)
    rsp (exec (.xferR { port := .dp, addr := 1 }) s) = some [0x05, 0x04] ∧
      ses (exec (.xferR { port := .dp, addr := 1 }) s) = some { s.ses with errCnt := 1 } := by decide
set_option maxRecDepth 4000 in
/-- Vectors 6.2 and 10.2. -/
theorem test_xferW :
    let s := answered ackOk (conn .swd false)
    rsp (exec (.xferW { port := .dp, addr := 2 } 0xCAFEF00D) s) = some [0x05, 0x00] ∧
      trace (exec (.xferW { port := .dp, addr := 2 } 0xCAFEF00D) s) =
        some
          (dd [1, 0, 0, 0, 1, 1, 0, 1] ++ [.turn 24] ++ ss [1, 0, 0] ++ [.turn 24] ++ dd [1, 0, 1, 1, 0, 0, 0, 0] ++
            dd [0, 0, 0, 0, 1, 1, 1, 1] ++ dd [0, 1, 1, 1, 1, 1, 1, 1] ++ dd [0, 1, 0, 1, 0, 0, 1, 1] ++ dd [0]) := by
  decide
/-- Vector 7.1: the first scan Operation, a write, with the chain-select field. -/
theorem test_xferW_scan :
    let s := answered (List.replicate 39 false) (conn .scan false)
    trace (exec (.xferW { port := .dp, addr := 2 } 0xF0) s) =
        some
          (xx [(0, 0), (1, 0), (0, 0), (1, 0)] ++ xx [(0, 0), (0, 0), (1, 0)] ++
            xx [(0, 0), (0, 0), (0, 0), (0, 0), (1, 0), (1, 0), (1, 0), (1, 0)] ++ List.replicate 24 (.scan false false 24)) ∧
      ses (exec (.xferW { port := .dp, addr := 2 } 0xF0) s) = some { s.ses with irState := .dp } := by decide

theorem test_qpushR :
    rsp (exec (.qpushR { port := .dp, addr := 0 }) (conn .swd false)) = some [0x06, 0x00, 0x07] ∧
      ses (exec (.qpushR { port := .dp, addr := 0 }) (conn .swd false)) =
        some { (conn .swd false).ses with dstate := .queuing } := by decide
theorem test_qpushW_full :
    let s := queued 8 0 (conn .swd false)
    rsp (exec (.qpushW { port := .dp, addr := 0 } 1) s) = some [0x06, 0x05, 0x00] ∧
      ses (exec (.qpushW { port := .dp, addr := 0 } 1) s) = some { s.ses with ovrCnt := 1 } := by decide

/-- Program P2: two OK, then FAULT on the third of five, abort-on-error. -/
theorem test_qexec_stops :
    let s := answered (ackOk ++ ackOk ++ [false, false, true]) (queued 5 0 (conn .swd true))
    rsp (exec .qexec s) = some [0x07, 0x02, 0x05, 0x03, 0x02, 0x00, 0x00, 0x02, 0x06, 0x06] ∧
      ses (exec .qexec s) = some { (conn .swd true).ses with errCnt := 1 } := by decide
/-- R30, R222, R229: a result slot filled after execution, and one marked not-executed; a read that ended OK is recorded with
its value, one with a wrong parity bit without. -/
theorem test_result_slot :
    recordOf (fillResult .ok 0x0BC12477 { Op.reset with sel := 2 }) = [0x00, 0x77, 0x24, 0xC1, 0x0B] ∧
      recordOf (fillResult .parityErr 0x0BC12477 { Op.reset with sel := 2 }) = [0x03] ∧
      markNotExecuted { Op.reset with rvalue := 5 } = { Op.reset with rvalue := 5, status := 0x06 } := by decide
/-- Vector 10.13. -/
theorem test_qexec_empty : rsp (exec .qexec (conn .swd true)) = some [0x07, 0x00, 0x00, 0x00, 0xFF] := by decide

/-! Wire fields (95 sections 3, 5 and 7). -/

theorem test_swdReq : trace (exec (.swdReq 0x2) (conn .swd false)) = some (dd [1, 0, 1, 0, 0, 1, 0, 1]) := by decide
theorem test_swdAck : trace (exec (.swdAck 0b100) (conn .swd false)) = some (.turn 24 :: ss [0, 0, 1]) := by decide
theorem test_swdData_write :
    trace (exec (.swdData 1 true) (conn .swd false)) = some (dd ([1] ++ List.replicate 31 0 ++ [1])) := by decide
theorem test_scanIr :
    trace (exec (.scanIr .dp) (answered (List.replicate 4 false) (conn .scan false))) =
      some (xx [(0, 0), (1, 0), (0, 0), (1, 0)]) := by decide
theorem test_scanDr :
    trace (exec (.scanDr true true false 0) (answered (List.replicate 35 true) (conn .scan false))) =
      some (xx [(1, 1), (1, 1), (0, 1)] ++ List.replicate 32 (.scan false true 24)) := by decide

/-! Witnesses: for every statement with hypotheses, a state and operands that meet them, at the boundaries of each clause.
The conclusion of `witness_X` is the hypotheses of `Obligations.X` on that instance. -/

theorem legal_cfgEx : Legal Config.cfgEx := by constructor <;> decide

/-- CFG_EX with every parameter at the other end of what R10 allows: a legal configuration without the data-in pin and
without retries. -/
def cfgSmall : Config :=
  { Config.cfgEx with
    fSys := 7, halfMin := 1, halfBits := 1, halfReset := 1, qcap := 1, waitRetryMax := 0, trn := 4, hasAux := false
    scanIrLen := 1, scanIrDp := 0, scanIrAp := 1, cmdMax := 6, rspMax := 14 }

theorem legal_cfgSmall : Legal cfgSmall := by constructor <;> decide

theorem inv_reset : Sys2Proof.Inv State.reset := by
  constructor <;> first | exact legal_cfgEx | decide

theorem inv_conn_swd : Sys2Proof.Inv (conn .swd true) := by
  constructor <;> first | exact legal_cfgEx | decide

theorem inv_conn_scan : Sys2Proof.Inv (conn .scan false) := by
  constructor <;> first | exact legal_cfgEx | decide

theorem inv_queued_full : Sys2Proof.Inv (queued 8 0xF (conn .swd true)) := by
  constructor <;> first | exact legal_cfgEx | decide

theorem inRange_queued (n : Nat) (h : n ≤ 8) (d : Disc) : QueueInRange (queued n 2 (conn d true)) :=
  ⟨rfl, show 0 < 8 by decide, h, show 8 ≤ 255 by decide⟩

/-- The invariant says nothing of the host's side. -/
theorem inv_setHost {s : State} (v : HostPort) (h : Sys2Proof.Inv s) : Sys2Proof.Inv (s.setHost v) :=
  ⟨h.1, h.2, h.3, h.4, h.5, h.6, h.7, h.8, h.9, h.10, h.11, h.12, h.13, h.14, h.15, h.16, h.17, h.18⟩

/-- Nor of the target's coming answers. -/
theorem inv_answered {s : State} (l : List Bool) (h : Sys2Proof.Inv s) : Sys2Proof.Inv (answered l s) :=
  ⟨h.1, h.2, h.3, h.4, h.5, h.6, h.7, h.8, h.9, h.10, h.11, h.12, h.13, h.14, h.15, h.16, h.17, h.18⟩

/-! Encoding. -/

theorem witness_DecodeEncodeCommand :
    ∀ i ∈ [Instr.info, .connect 0 0, .clock 0, .reset 2 0xFFFFFFFF, .xferR ⟨.ap, 3⟩, .xferW ⟨.dp, 0⟩ 0, .qpushR ⟨.dp, 3⟩,
      .qpushW ⟨.ap, 0⟩ 0xFFFFFFFF, .qexec, .abort], i.isCommand = true := by decide

theorem witness_DecodeEncodeWireField :
    Legal cfgSmall ∧
      ∀ i ∈ [Instr.swdReq 0xF, .swdAck 7, .swdData 0xFFFFFFFF true, .scanIr .dp, .scanIr .ap, .scanDr true true true 0,
        .scanDr false false false 0xFFFFFFFF], i.isCommand = false ∧ i.wellFormed = true :=
  ⟨legal_cfgSmall, by decide⟩

theorem witness_AcceptedPacketIsItsEncoding :
    decodePacket [0x05, 0x0F] = .ok (.xferR ⟨.ap, 3⟩) ∧ decodePacket [0x08] = .ok .abort := by decide

/-- Both directions of the equivalence, XFER and QPUSH with SEL at its ends, and a packet on neither side. -/
theorem witness_DecoderAcceptsExactly :
    (decodePacket [0x06, 0x02] = .ok (.qpushR ⟨.dp, 0⟩) ∧ packetLength 0x06 0x02 = some 2 ∧
        (0x02#8).extractLsb' 4 4 = 0#4) ∧
      (decodePacket [0x05, 0x0D, 0, 0, 0, 0] = .ok (.xferW ⟨.ap, 3⟩ 0) ∧ packetLength 0x05 0x0D = some 6) ∧
      packetLength 0x05 0x12 = some 2 ∧ decodePacket [0x05, 0x12] = .error (.reservedSel 0x05) := by decide

theorem witness_AckParser :
    ∀ a ∈ [0#3, 3#3, 5#3, 6#3, 7#3], a ≠ 0b001#3 ∧ a ≠ 0b010#3 ∧ a ≠ 0b100#3 := by decide

theorem witness_HeaderLayout : header 0xB = 0xB7#8 := by decide

/-! Reset and the step. -/

theorem witness_ResetMeetsInvariant : Legal Config.cfgEx ∧ Legal cfgSmall := ⟨legal_cfgEx, legal_cfgSmall⟩

theorem witness_HardwareResetStep :
    ((conn .swd true).setHost { (conn .swd true).host with rstN := false }).host.rstN = false := rfl

/-- An XFER read of selector 0b0010 (header 0xA5), which the target answers FAULT, with a hardware reset inside it. -/
def cutRead (cut : ResetCut) : State :=
  offered [[0x05, 0x02]]
    ((answered ackFault (conn .swd true)).setHost { (conn .swd true).host with rstCut := some cut })

/-- Cuts at the first boundary, at both sides of both clock edges of the first header cycle, and at both sides of the sample
point of the first acknowledgement cycle (S.HALF 24). The clauses on the event in flight have their event there, and the
clause without one at a cut past the last event. -/
theorem witness_ResetInsideCommand :
    (∀ cut ∈ [ResetCut.mk 0 0, .mk 0 24, .mk 0 25, .mk 0 48, .mk 1 0, .mk 9 23, .mk 9 24, .mk 60 5],
        let s := cutRead cut
        Sys2Proof.Inv s ∧ s.host.rstN = true ∧ s.rspBuf = [] ∧ s.host.cmdIn = [0x05, 0x02] :: [] ∧
          s.host.rstCut = some cut) ∧
      ∃ u, runPacket [0x05, 0x02] (accept [0x05, 0x02] [] (cutRead ⟨0, 0⟩)) = .next u ∧
        u.wire.trace[0]? = some (.drive true 24) :=
  ⟨fun _ _ => ⟨inv_setHost _ (inv_setHost _ (inv_answered _ inv_conn_swd)), rfl, rfl, rfl, rfl⟩, _, rfl, by decide⟩

/-- The same at half-period 1. -/
def cutFast (cut : ResetCut) : State :=
  (cutRead cut).setSes { (cutRead cut).ses with half := 1 }

/-- Place, ticks and clock level of what was cut short. -/
def cutClock (s : State) : Option (List (Nat × Nat × Option Bool)) :=
  (cuts (step s)).map (List.map fun c => (c.place, c.ticks, c.clk))

/-- R124: in a cycle of half-period 24 the clock is low in ticks 0 to 23 and high from tick 24, so that it stops at 0 after 24
ticks of the first header cycle and at 1 after 25 (R280). -/
theorem test_reset_cut_clock :
    cutClock (cutRead ⟨0, 24⟩) = some [(0, 24, some false)] ∧ cutClock (cutRead ⟨0, 25⟩) = some [(0, 25, some true)] := by
  decide
/-- R124: the clock stays high through t0 + 2h - 1, so that a reset on the edge t0 + 2h leaves it at 1; after the falling edge
it is at 0. -/
theorem test_reset_cut_falling_edge :
    cutClock (cutRead ⟨0, 48⟩) = some [(0, 48, some true)] ∧ cutClock (cutRead ⟨1, 0⟩) = some [(1, 0, some false)] := by
  decide
/-- With half-period 1 the high phase is the one tick t0 + 1. -/
theorem test_reset_cut_shortest_cycle :
    cutClock (cutFast ⟨0, 1⟩) = some [(0, 1, some false)] ∧ cutClock (cutFast ⟨0, 2⟩) = some [(0, 2, some true)] := by
  decide
/-- R120: the first acknowledgement cycle, after 8 D and 1 T, samples at its tick 23, the last of the low phase. -/
theorem test_reset_cut_sample :
    drawn (step (cutRead ⟨9, 23⟩)) = some 0 ∧ drawn (step (cutRead ⟨9, 24⟩)) = some 1 ∧
      trace (step (cutRead ⟨9, 24⟩)) = some (dd [1, 0, 1, 0, 0, 1, 0, 1] ++ [.turn 24]) := by decide

theorem witness_StepRunsCommand :
    let s := offered [[0x05, 0x02], [0x08]] (conn .swd true)
    s.host.rstN = true ∧ s.host.rstCut = none ∧ s.wire.field = none ∧ s.rspBuf = [] ∧
      s.host.cmdIn = [0x05, 0x02] :: [[0x08]] ∧ decodePacket [0x05, 0x02] = .ok (.xferR ⟨.dp, 0⟩) := by decide

theorem witness_StepRunsWireField :
    let s := (conn .swd true).setWire { (conn .swd true).wire with field := some { field := .ack, bits := 1 } }
    s.host.rstN = true ∧ s.wire.field = some { field := .ack, bits := 1 } ∧
      decodeWire s.cfg { field := .ack, bits := 1 } = .ok (.swdAck 1) := by decide

theorem witness_StepAnswersMalformed :
    ∀ pe ∈ [(([] : Packet), DecodeError.emptyPacket), ([0xFF], .unknownOpcode 0xFF), ([0x06, 0xF2], .reservedSel 0x06)],
      let s := offered [pe.1] State.reset
      s.host.rstN = true ∧ s.host.rstCut = none ∧ s.wire.field = none ∧ s.rspBuf = [] ∧ s.host.cmdIn = pe.1 :: [] ∧
        decodePacket pe.1 = .error pe.2 := by decide

/-- Both readiness clauses. -/
theorem witness_ResponseHeldUntilTaken :
    ∀ ready ∈ [false, true],
      let s := (State.reset.setRsp [0x01, 0x07]).setHost { State.reset.host with rspReady := ready }
      s.host.rstN = true ∧ s.wire.field = none ∧ s.rspBuf ≠ [] ∧ s.host.rspReady = ready := by decide

theorem witness_StepWaitsForPacket :
    State.reset.host.rstN = true ∧ State.reset.wire.field = none ∧ State.reset.rspBuf = [] ∧
      State.reset.host.cmdIn = [] := by decide

theorem witness_StepKeepsInvariant :
    Sys2Proof.Inv (offered [[0x08]] (queued 8 0xF (conn .swd true))) ∧
      ∃ t, step (offered [[0x08]] (queued 8 0xF (conn .swd true))) = .next t :=
  ⟨inv_setHost _ inv_queued_full, _, rfl⟩

theorem witness_NoStuckState : Sys2Proof.Inv State.reset ∧ Sys2Proof.Inv (conn .scan false) := ⟨inv_reset, inv_conn_scan⟩

theorem witness_EveryPacketIsAnswered :
    let s := offered [[]] (queued 8 0xF (conn .swd true))
    Sys2Proof.Inv s ∧ s.host.rstN = true ∧ s.host.rstCut = none ∧ s.rspBuf = [] ∧ s.host.cmdIn = [] :: [] :=
  ⟨inv_setHost _ inv_queued_full, rfl, rfl, rfl, rfl⟩

/-! Session commands. -/

/-- The illegal clause by DISC 0 and 3, by a missing pin, by FLAGS bits 1 and 7; the legal one in Queuing and outside. -/
theorem witness_ConnectSelectsOrRefuses :
    (∀ d ∈ [0#8, 3#8], d ≠ 1#8 ∧ d ≠ 2#8) ∧ cfgSmall.hasAux = false ∧
      (∀ f ∈ [2#8, 0x80#8], f.extractLsb' 1 7 ≠ 0#7) ∧ (∀ f ∈ [0#8, 1#8], f.extractLsb' 1 7 = 0#7) ∧
      State.reset.cfg.hasAux = true ∧ (queued 1 0 (conn .swd true)).ses.dstate = .queuing ∧
      State.reset.ses.dstate ≠ .queuing := by decide

theorem witness_ClockSetsHalfOrRefuses :
    (366#32).toNat < fMin State.reset.cfg ∧ fMin State.reset.cfg ≤ (367#32).toNat := by decide

/-- The smallest legal request; the largest half-period is one of those the fourth clause compares with. -/
theorem witness_ClampIsClosestFromBelow :
    Legal Config.cfgEx ∧ fMin Config.cfgEx ≤ 367 ∧ Config.cfgEx.halfMin ≤ 65535 ∧ 65535 ≤ halfMax Config.cfgEx ∧
      Config.cfgEx.fSys ≤ 2 * 65535 * 367 := ⟨legal_cfgEx, by decide, by decide, by decide, by decide⟩

theorem witness_ClampIsMonotonicAndTopsOut :
    Legal Config.cfgEx ∧ fMin Config.cfgEx ≤ 367 ∧ 367 ≤ 24000000 ∧ fMax Config.cfgEx < 24000001 :=
  ⟨legal_cfgEx, by decide, by decide, by decide⟩

theorem witness_ResetDrivesResetLine :
    1 < (2#8).toNat ∧ (1#8 = if true then 1#8 else 0#8) ∧ (0#8 = if false then 1#8 else 0#8) ∧ 1#32 ≠ 0#32 := by decide

/-! Transfers. -/

/-- No WAIT, and as many as the budget allows. -/
theorem witness_XferReadReturnsValue :
    ∀ n ∈ [0, 2],
      let s := answered (waitAnswers n ++ (ackOk ++ levels 0x0BC12477 (parity32 0x0BC12477)) ++ []) (conn .swd false)
      s.ses.dstate = .connected ∧ codecReady s = true ∧ s.ses.disc = .swd ∧ n ≤ s.cfg.waitRetryMax ∧
        s.wire.answers = waitAnswers n ++ (ackOk ++ (bitsLsbFirst (0x0BC12477 : Word) 32 ++ [parity32 0x0BC12477])) ++ [] := by
  intro n hn
  have h : n = 0 ∨ n = 2 := by simpa using hn
  exact ⟨rfl, rfl, rfl, show n ≤ 2 by omega, rfl⟩

theorem witness_XferReadParityError :
    ∀ n ∈ [0, 2],
      let s := answered (waitAnswers n ++ (ackOk ++ levels 0 (!parity32 0)) ++ []) (conn .swd false)
      s.ses.dstate = .connected ∧ codecReady s = true ∧ s.ses.disc = .swd ∧ n ≤ s.cfg.waitRetryMax ∧
        s.wire.answers = waitAnswers n ++ (ackOk ++ (bitsLsbFirst (0 : Word) 32 ++ [!parity32 0])) ++ [] := by
  intro n hn
  have h : n = 0 ∨ n = 2 := by simpa using hn
  exact ⟨rfl, rfl, rfl, show n ≤ 2 by omega, rfl⟩

theorem witness_XferWriteDrivesValue :
    ∀ n ∈ [0, 2],
      let s := answered (waitAnswers n ++ ackOk ++ [true]) (conn .swd false)
      s.ses.dstate = .connected ∧ codecReady s = true ∧ s.ses.disc = .swd ∧ n ≤ s.cfg.waitRetryMax ∧
        s.wire.answers = waitAnswers n ++ ackOk ++ [true] := by decide

/-- FAULT, and NO_ACK by 0b000 and 0b111; the read and the write form. -/
theorem witness_XferFaultOrNoAck :
    (∀ ack ∈ [4#3, 0#3, 7#3],
        let s := answered (waitAnswers 2 ++ bitsLsbFirst ack 3 ++ []) (conn .swd false)
        s.ses.dstate = .connected ∧ codecReady s = true ∧ s.ses.disc = .swd ∧ 2 ≤ s.cfg.waitRetryMax ∧ ack ≠ 1#3 ∧
          ack ≠ 2#3 ∧ s.wire.answers = waitAnswers 2 ++ bitsLsbFirst ack 3 ++ []) ∧
      (∃ loc, Instr.xferR ⟨.dp, 0⟩ = .xferR loc ∧ selOf ⟨.dp, 0⟩ true = selOf loc true) ∧
      ∃ loc v, Instr.xferW ⟨.ap, 3⟩ 5 = .xferW loc v ∧ selOf ⟨.ap, 3⟩ false = selOf loc false :=
  ⟨by decide, ⟨_, rfl, rfl⟩, ⟨_, _, rfl, rfl⟩⟩

/-- Under CFG_EX (two retries) and under a configuration without retries. -/
theorem witness_XferWaitBudgetExhausted :
    ∀ c ∈ [Config.cfgEx, cfgSmall],
      let s := answered (waitAnswers (c.waitRetryMax + 1) ++ []) { conn .swd false with cfg := c }
      s.ses.dstate = .connected ∧ codecReady s = true ∧ s.ses.disc = .swd ∧
        s.wire.answers = waitAnswers (s.cfg.waitRetryMax + 1) ++ [] ∧ s.cfg = c := by decide

/-- Without a selected chain (4 leading answers), and with the port's chain selected (none). -/
theorem witness_XferScan :
    ∀ p ∈ [(IrState.none, [false, false, false, false]), (IrState.dp, [])],
      let s0 := conn .scan false
      let s := answered (p.2 ++ ([false, true, false] ++ bitsLsbFirst (5 : Word) 32) ++ [])
        (s0.setSes { s0.ses with irState := p.1 })
      s.ses.dstate = .connected ∧ codecReady s = true ∧ s.ses.disc = .scan ∧
        p.2.length = (if s.ses.irState = irOf (selPort (selOf ⟨.dp, 1⟩ true)) then 0 else s.cfg.scanIrLen) ∧
        s.wire.answers = p.2 ++ ([false, true, false] ++ bitsLsbFirst (5 : Word) 32) ++ [] := by decide

theorem witness_XferAlwaysCompletes :
    (∀ d ∈ [Disc.swd, .scan], (conn d false).ses.dstate = .connected ∧ codecReady (conn d false) = true) ∧
      (∃ loc, Instr.xferR ⟨.dp, 0⟩ = .xferR loc ∧ selOf ⟨.dp, 0⟩ true = selOf loc true ∧ (0#32 : Word) = 0#32) ∧
      ∃ loc, Instr.xferW ⟨.ap, 3⟩ 5 = .xferW loc 5 ∧ selOf ⟨.ap, 3⟩ false = selOf loc false :=
  ⟨by decide, ⟨_, rfl, rfl, rfl⟩, ⟨_, rfl, rfl⟩⟩

theorem witness_XferRefusedOutsideConnected :
    (∃ loc, Instr.xferR ⟨.dp, 0⟩ = .xferR loc) ∧ State.reset.ses.dstate ≠ .connected ∧
      (queued 1 0 (conn .swd true)).ses.dstate ≠ .connected := ⟨⟨_, rfl⟩, by decide, by decide⟩

theorem witness_RoundTrip :
    let s := answered (ackOk ++ []) (conn .swd false)
    s.ses.dstate = .connected ∧ codecReady s = true ∧ s.ses.disc = .swd ∧ s.wire.answers = ackOk ++ [] := by decide

/-- An empty queue in Connected, and one slot left in Queuing. -/
theorem witness_QpushAppends :
    (∃ loc, Instr.qpushR ⟨.ap, 3⟩ = .qpushR loc ∧ selOf ⟨.ap, 3⟩ true = selOf loc true ∧ (none : Option Word) = none) ∧
      ∀ n ∈ [0, 7],
        let s := queued n 2 (conn .swd true)
        s.ses.dstate ≠ .idle ∧ QueueInRange s ∧ s.queue.count < s.cfg.qcap := by
  refine ⟨⟨_, rfl, rfl, rfl⟩, fun n hn => ?_⟩
  have h : n = 0 ∨ n = 7 := by simpa using hn
  rcases h with rfl | rfl
  · exact ⟨by decide, inRange_queued 0 (by decide) _, by decide⟩
  · exact ⟨by decide, inRange_queued 7 (by decide) _, by decide⟩

theorem witness_QpushOnFullQueue :
    (∃ loc v, Instr.qpushW ⟨.dp, 0⟩ 1 = .qpushW loc v) ∧ (queued 8 0 (conn .swd true)).ses.dstate ≠ .idle ∧
      (queued 8 0 (conn .swd true)).queue.count = (queued 8 0 (conn .swd true)).cfg.qcap :=
  ⟨⟨_, _, rfl⟩, by decide, by decide⟩

theorem witness_QueueCommandsRefusedInIdle :
    State.reset.ses.dstate = .idle ∧ (∃ loc, Instr.qpushR ⟨.dp, 0⟩ = .qpushR loc) ∧ Instr.qexec = .qexec :=
  ⟨rfl, ⟨_, rfl⟩, rfl⟩

/-- The empty queue, and the full one, in both disciplines. -/
theorem witness_QexecDrainsInOrder :
    ∀ d ∈ [Disc.swd, .scan], ∀ n ∈ [0, 8],
      let s := queued n 2 (conn d true)
      s.ses.dstate ≠ .idle ∧ QueueInRange s ∧ (s.queue.count = 0 ∨ codecReady s = true) ∧ s.ses.disc = d := by
  intro d hd n hn
  have hd : d = .swd ∨ d = .scan := by simpa using hd
  have h : n = 0 ∨ n = 8 := by simpa using hn
  rcases hd with rfl | rfl <;> rcases h with rfl | rfl
  · exact ⟨by decide, inRange_queued 0 (by decide) _, by decide, rfl⟩
  · exact ⟨by decide, inRange_queued 8 (by decide) _, by decide, rfl⟩
  · exact ⟨by decide, inRange_queued 0 (by decide) _, by decide, rfl⟩
  · exact ⟨by decide, inRange_queued 8 (by decide) _, by decide, rfl⟩

theorem witness_QexecScanNeverFails :
    let s := queued 8 2 (conn .scan true)
    s.ses.dstate ≠ .idle ∧ QueueInRange s ∧ codecReady s = true ∧ s.ses.disc = .scan :=
  ⟨by decide, inRange_queued 8 (by decide) _, by decide, rfl⟩

theorem witness_TransferStopsWithoutDrivenLines :
    let s := (conn .swd true).setPin Pins.reset
    codecReady s = false ∧ s.ses.dstate = .connected ∧ codecReady (queued 1 2 s) = false ∧
      (queued 1 2 s).ses.dstate ≠ .idle ∧ (queued 1 2 s).queue.count ≠ 0 := by decide

/-! Wire fields. -/

/-- With the line driven, and after a sampled field. -/
theorem witness_SwdReqDrivesHeader :
    swdReady (conn .swd true) = true ∧
      swdReady ((conn .swd true).setPin { drivenLow with dioOE := false }) = true := by decide

theorem witness_SwdAckSamplesAck :
    swdReady (conn .swd true) = true ∧
      swdReady ((conn .swd true).setPin { drivenLow with dioOE := false }) = true := by decide

theorem witness_SwdDataSamplesRead :
    let s := ((conn .swd true).setWork { Work.reset with sel := 2 }).setPin { drivenLow with dioOE := false }
    swdReady s = true ∧ selIsRead s.work.sel = true := by decide

theorem witness_SwdDataDrivesWrite :
    let s := (conn .swd true).setPin { drivenLow with dioOE := false }
    swdReady s = true ∧ selIsRead s.work.sel = false := by decide

theorem witness_ScanIrSelectsChain :
    let s := answered ([true, false, true, false] ++ [true]) (conn .scan true)
    scanReady s = true ∧ [true, false, true, false].length = s.cfg.scanIrLen ∧
      s.wire.answers = [true, false, true, false] ++ [true] := by decide

theorem witness_ScanDrShiftsWord :
    let s := answered ([false, true, false] ++ bitsLsbFirst (0x24770011 : Word) 32 ++ []) (conn .scan true)
    scanReady s = true ∧ [false, true, false].length = 3 ∧
      s.wire.answers = [false, true, false] ++ bitsLsbFirst (0x24770011 : Word) 32 ++ [] := by decide

theorem witness_WireFieldsComposeTransaction :
    swdReady (conn .swd true) = true ∧ (conn .swd true).pin.dioOE = true ∧ selIsRead 0 = false ∧
      selIsRead 2 = true := by decide

theorem witness_WireFieldOutsideDisciplineStops :
    swdReady (conn .scan true) = false ∧ scanReady (conn .swd true) = false := by decide

/-! Timing. -/

/-- The shortest half-period and S.HALF of the vectors; a tick of each phase and the sample point (95 section 5). -/
theorem witness_CycleTimeline :
    (1 ≤ 1 ∧ eventHalf (.scan true false 1) = some 1 ∧
        (timeline (.scan true false 1))[0]? = some ⟨false, some true, true, 1⟩) ∧
      1 ≤ 24 ∧ eventHalf (.sample true 24) = some 24 ∧
      (timeline (.sample true 24))[23]? = some ⟨false, none, true, 1⟩ ∧
      (timeline (.sample true 24))[24]? = some ⟨true, none, false, 24⟩ := by decide

theorem witness_EveryCycleAtTheSetRate :
    let s := offered [[0x07]] (conn .swd true)
    Sys2Proof.Inv s ∧ s.host.rstCut = none ∧ ∃ t, step s = .next t :=
  ⟨inv_setHost _ inv_conn_swd, rfl, _, rfl⟩

/-! The whole machine. -/

/-- The empty trace, and a trace that ends after a turnaround back to driving. -/
theorem witness_StepKeepsTurnaroundRule :
    Sys2Proof.Inv (offered [[0x07]] (conn .swd true)) ∧ (offered [[0x07]] (conn .swd true)).host.rstCut = none ∧
      TurnaroundOk 1 (offered [[0x07]] (conn .swd true)).wire.trace ∧
      (∃ t, step (offered [[0x07]] (conn .swd true)) = .next t) ∧
      TurnaroundOk 2 [.drive true 1, .turn 1, .turn 1, .sample true 1, .turn 1, .turn 1] :=
  ⟨inv_setHost _ inv_conn_swd, rfl, ⟨.start, rfl, rfl⟩, ⟨_, rfl⟩, .toDrive 2, rfl, rfl⟩

/-- The rule is not empty: a trace with too short a turnaround breaks it. -/
theorem test_turnaround_too_short :
    lineRun 2 .start ([.drive true 1, .turn 1, .sample true 1].filterMap lineUse) = none := by decide

/-- Each clause's antecedent on a next state: for every register an instruction that writes it. -/
theorem witness_OnlyTheseCommandsWrite :
    (∃ t, exec (.clock 1000000) State.reset = .next t ∧ t.ses.half ≠ State.reset.ses.half) ∧
      (∃ t, exec (.reset 1 0) State.reset = .next t ∧ t.ses.rst ≠ State.reset.ses.rst ∧
        rstO t ≠ rstO State.reset ∧ t.wire ≠ State.reset.wire) ∧
      (∃ t, exec (.connect 1 1) State.reset = .next t ∧ t.ses.aoe ≠ State.reset.ses.aoe ∧
        t.ses.disc ≠ State.reset.ses.disc ∧ t.ses.dstate ≠ State.reset.ses.dstate ∧ t.pin ≠ State.reset.pin) ∧
      (∃ t, exec (.xferR ⟨.dp, 0⟩) (answered ackFault (conn .swd true)) = .next t ∧
        t.ses.errCnt ≠ (answered ackFault (conn .swd true)).ses.errCnt) ∧
      (∃ t, exec (.qpushR ⟨.dp, 0⟩) (queued 8 0 (conn .swd true)) = .next t ∧
        t.ses.ovrCnt ≠ (queued 8 0 (conn .swd true)).ses.ovrCnt) ∧
      (∃ t, exec (.scanIr .ap) (conn .scan true) = .next t ∧ t.ses.irState ≠ (conn .scan true).ses.irState) ∧
      ∃ t, exec (.qpushR ⟨.dp, 0⟩) (conn .swd true) = .next t ∧ t.queue.count ≠ (conn .swd true).queue.count :=
  ⟨⟨_, rfl, by decide⟩, ⟨_, rfl, by decide, by decide, by decide⟩,
    ⟨_, rfl, by decide, by decide, by decide, by decide⟩, ⟨_, rfl, by decide⟩, ⟨_, rfl, by decide⟩,
    ⟨_, rfl, by decide⟩, _, rfl, by decide⟩

/-- S.OVR_CNT at its ends: 0 counts to 1, 0xFFFF stays. -/
theorem witness_CountersAreSticky :
    ∀ v ∈ [0#16, 0xFFFF#16],
      let s0 := queued 8 0 (conn .swd true)
      let s := s0.setSes { s0.ses with ovrCnt := v, errCnt := 1 }
      Instr.qpushR ⟨.dp, 0⟩ ≠ .abort ∧ (∀ d f, Instr.qpushR ⟨.dp, 0⟩ ≠ .connect d f) ∧
        (∃ t, exec (.qpushR ⟨.dp, 0⟩) s = .next t) ∧ errFlag s = true ∧ ovrFlag s = (v != 0#16) :=
  fun _ _ => ⟨nofun, nofun, ⟨_, rfl⟩, rfl, rfl⟩

theorem witness_RefusedCommandDoesNothing :
    Instr.qexec.isCommand = true ∧
      (∃ t, exec .qexec State.reset = .next t ∧ refusedResponse t.rspBuf = true) ∧
      ∃ t, exec (.reset 2 0) State.reset = .next t ∧ refusedResponse t.rspBuf = true :=
  ⟨rfl, ⟨_, rfl, by decide⟩, _, rfl, by decide⟩

/-- The three clauses: illegal fields (BAD_COMMAND wins in Queuing), a refusal of the table, an accepted command. -/
theorem witness_TransitionTable :
    Sys2Proof.Inv (queued 8 0xF (conn .swd true)) ∧ (Instr.connect 3 0).isCommand = true ∧
      legalFields Config.cfgEx (.connect 3 0) = false ∧ legalFields Config.cfgEx (.connect 1 0) = true ∧
      tableRefuses (queued 8 0xF (conn .swd true)).ses.dstate (.connect 1 0) = true ∧
      legalFields Config.cfgEx .qexec = true ∧
      tableRefuses (queued 8 0xF (conn .swd true)).ses.dstate .qexec = false :=
  ⟨inv_queued_full, by decide, by decide, by decide, by decide, by decide, by decide⟩

theorem witness_TargetCannotReachSession :
    Instr.abort.isCommand = true ∧ (∀ l, Instr.abort ≠ .xferR l) ∧ (∀ l v, Instr.abort ≠ .xferW l v) ∧
      Instr.abort ≠ .qexec ∧ ∃ t, exec .abort (conn .swd true) = .next t :=
  ⟨rfl, nofun, nofun, nofun, _, rfl⟩

end Sys2Proof.Tests
end

section
/-!
SUPPORT. The part of the invariant that a command can touch before it answers, and what each shared operation keeps of it:
S.DSTATE from S.DISC and QCOUNT (10_state.md R34), S.HALF and the queue in range (R21, R32), the pins by discipline (R41).
-/

namespace Sys2Proof.Machine

open Sys2Proof

/-- S.DSTATE as the function of S.DISC and QCOUNT that R34 gives. -/
def dstateOf (d : Disc) (count : Nat) : DState :=
  if d = .none then .idle else if count = 0 then .connected else .queuing

theorem eq_dstateOf_iff {x : DState} {d : Disc} {count : Nat} :
    x = dstateOf d count ↔
      (x = .idle ↔ d = .none) ∧ (x = .connected ↔ d ≠ .none ∧ count = 0) ∧
        (x = .queuing ↔ d ≠ .none ∧ 0 < count) := by
  unfold dstateOf
  split_ifs with hd hc
  · cases x <;> simp [hd]
  · cases x <;> simp [hd, hc]
  · cases x <;> simp [hd, hc, Nat.pos_iff_ne_zero]

/-- The invariant without the response and the registers that the end of every command draws afresh (R24, R44). -/
structure Settled (s : State) : Prop where
  legal : Legal s.cfg
  half_ge : s.cfg.halfMin ≤ s.ses.half
  half_le : s.ses.half ≤ halfMax s.cfg
  queueOk : QueueOk s.cfg s.queue
  dstate_eq : s.ses.dstate = dstateOf s.ses.disc s.queue.count
  idle_empty : s.ses.disc = .none → s.queue.count = 0
  scan_aux : s.ses.disc = .scan → s.cfg.hasAux = true
  released : s.ses.disc = .none → s.pin.clkOE = false ∧ s.pin.dioOE = false
  driven : s.ses.disc ≠ .none → s.pin = drivenLow
  field_none : s.wire.field = none

/-- The invariant is `Settled` with the response and the HALF_BITS-bit registers in range. -/
theorem inv_iff_settled {s : State} :
    Inv s ↔
      Settled s ∧ (s.rspBuf = [] ∨ 2 ≤ s.rspBuf.length) ∧ s.rspBuf.length ≤ s.cfg.rspMax ∧
        s.work.h ≤ halfMax s.cfg ∧ s.timers.phaseCnt ≤ halfMax s.cfg := by
  constructor
  · intro h
    exact ⟨⟨h.legal, h.half_ge, h.half_le, ⟨h.slots_length, h.head_lt, h.count_le⟩,
      eq_dstateOf_iff.2 ⟨h.idle_iff, h.connected_iff, h.queuing_iff⟩, h.idle_empty, h.scan_aux, h.released, h.driven,
      h.field_none⟩, h.rsp_ge, h.rsp_le, h.latched_le, h.phase_le⟩
  · rintro ⟨h, hge, hle, hh, hphase⟩
    obtain ⟨hidle, hconn, hqueuing⟩ := eq_dstateOf_iff.1 h.dstate_eq
    exact ⟨h.legal, h.half_ge, h.half_le, h.queueOk.slots_length, h.queueOk.head_lt, h.queueOk.count_le, hidle, hconn,
      hqueuing, h.idle_empty, h.scan_aux, h.released, h.driven, hge, hle, hh, hphase, h.field_none⟩

namespace Settled

variable {s t : State}

/-- `Settled` depends on the configuration, S.HALF, S.DISC, S.DSTATE, the queue, the pins and the codec's entry alone;
that an operation leaves these is in its own `simp` lemmas. -/
theorem congr (h : Settled s) (hcfg : t.cfg = s.cfg := by simp) (hhalf : t.ses.half = s.ses.half := by simp)
    (hdisc : t.ses.disc = s.ses.disc := by simp) (hdstate : t.ses.dstate = s.ses.dstate := by simp)
    (hqueue : t.queue = s.queue := by simp) (hpin : t.pin = s.pin := by simp)
    (hfield : t.wire.field = s.wire.field := by simp) : Settled t where
  legal := by rw [hcfg]; exact h.legal
  half_ge := by rw [hcfg, hhalf]; exact h.half_ge
  half_le := by rw [hcfg, hhalf]; exact h.half_le
  queueOk := by rw [hcfg, hqueue]; exact h.queueOk
  dstate_eq := by rw [hdstate, hdisc, hqueue]; exact h.dstate_eq
  idle_empty := by rw [hdisc, hqueue]; exact h.idle_empty
  scan_aux := by rw [hdisc, hcfg]; exact h.scan_aux
  released := by rw [hdisc, hpin]; exact h.released
  driven := by rw [hdisc, hpin]; exact h.driven
  field_none := by rw [hfield]; exact h.field_none

/-- Outside Idle a discipline is selected (R34). -/
theorem disc_ne_none (h : Settled s) (hd : s.ses.dstate ≠ .idle) : s.ses.disc ≠ .none := by
  obtain ⟨hidle, -, -⟩ := eq_dstateOf_iff.1 h.dstate_eq
  exact fun hn => hd (hidle.2 hn)

/-- Outside Queuing the queue is empty (R34, 92 D47). -/
theorem count_eq_zero (h : Settled s) (hd : s.ses.dstate ≠ .queuing) : s.queue.count = 0 := by
  obtain ⟨-, -, hqueuing⟩ := eq_dstateOf_iff.1 h.dstate_eq
  by_contra hc
  exact hd (hqueuing.2 ⟨fun hn => hc (h.idle_empty hn), Nat.pos_of_ne_zero hc⟩)

/-- With a discipline selected the driver's precondition holds (40 R126, 41 R155). -/
theorem codecReady (h : Settled s) (hd : s.ses.disc ≠ .none) : codecReady s = true := by
  rw [codecReady_iff, h.driven hd]
  exact ⟨hd, rfl, rfl, rfl, h.scan_aux⟩

theorem setOp (h : Settled s) (op : Byte) : Settled (setOp op s) := h.congr

theorem accept (h : Settled s) (p : Packet) (rest : List Packet) : Settled (accept p rest s) := h.congr

theorem setHalf (h : Settled s) {half : Nat} (hge : s.cfg.halfMin ≤ half) (hle : half ≤ halfMax s.cfg) :
    Settled (setHalf half s) :=
  ⟨h.legal, hge, hle, h.queueOk, h.dstate_eq, h.idle_empty, h.scan_aux, h.released, h.driven, h.field_none⟩

/-- Selecting a discipline with an empty queue: Connected, lines driven (42 R183). -/
theorem selectDiscipline (h : Settled s) {d : Disc} (hd : d ≠ .none) (haux : d = .scan → s.cfg.hasAux = true)
    (hc : s.queue.count = 0) : Settled (selectDiscipline d s) where
  legal := h.legal
  half_ge := h.half_ge
  half_le := h.half_le
  queueOk := h.queueOk
  dstate_eq := by simp [dstateOf, hd, hc]
  idle_empty hn := absurd hn hd
  scan_aux := haux
  released hn := absurd hn hd
  driven _ := rfl
  field_none := h.field_none

/-- An Operation appended outside Idle: Queuing (43 R216, R217). -/
theorem enqueue {sel : Sel} {wdata : Option Word} (h : Settled s) (hd : s.ses.disc ≠ .none)
    (he : enqueue sel wdata s = some t) : Settled (setDState .queuing t) := by
  by_cases hfull : s.queue.count = s.cfg.qcap
  · simp [enqueue_full hfull] at he
  · rw [enqueue_room hfull, Option.some.injEq] at he
    subst he
    have hroom : s.queue.count < s.cfg.qcap := Nat.lt_of_le_of_ne h.queueOk.count_le hfull
    exact {
      legal := h.legal
      half_ge := h.half_ge
      half_le := h.half_le
      queueOk := ⟨by simpa using h.queueOk.slots_length, h.queueOk.head_lt, hroom⟩
      dstate_eq := by simp [dstateOf, hd]
      idle_empty := fun hn => absurd hn hd
      scan_aux := h.scan_aux
      released := fun hn => absurd hn hd
      driven := h.driven
      field_none := h.field_none }

/-- A drained queue outside Idle: Connected (43 R222). -/
theorem drained (h : Settled s) (hd : s.ses.disc ≠ .none) {u : State} {rs : List (Status × Word)}
    {evs : List (List WireEvent)} (hu : Drained (startBatch s) u rs evs) : Settled (setDState .connected u) := by
  have hcfg : u.cfg = s.cfg := hu.cfg
  have hhalf : u.ses.half = s.ses.half := by rw [hu.ses]; rfl
  have hdisc : u.ses.disc = s.ses.disc := by rw [hu.ses]; rfl
  exact {
    legal := by simpa [hcfg] using h.legal
    half_ge := by simpa [hcfg, hhalf] using h.half_ge
    half_le := by simpa [hcfg, hhalf] using h.half_le
    queueOk := hu.queueOk
    dstate_eq := by simp [dstateOf, hdisc, hd, hu.count]
    idle_empty := fun _ => hu.count
    scan_aux := by simpa [hcfg, hdisc] using h.scan_aux
    released := fun hn => absurd (hdisc.symm.trans hn) hd
    driven := fun _ => by
      have hpin : u.pin = if s.queue.count = 0 then s.pin else drivenLow := hu.pin
      simpa [h.driven hd] using hpin
    field_none := hu.field.trans h.field_none }

end Settled

end Sys2Proof.Machine
end

section
/-!
SUPPORT. Every command answers from a settled state and leaves a settled one (42_session_commands.md,
43_transfer_commands.md), and a hardware reset leaves the reset state (70 R280): between them, every step keeps the
invariant.
-/

namespace Sys2Proof.Machine

open Sys2Proof

/-! The end of a command. -/

theorem freeWork_h_le (c : Config) (n : Nat) : (freeWork c n).h ≤ halfMax c := freeHalf_le c _

theorem freeTimers_phaseCnt_le (c : Config) (n : Nat) : (freeTimers c n).phaseCnt ≤ halfMax c := freeHalf_le c _

/-- A response that fits, in a settled state, gives the invariant again: W.H and PHASE_CNT are drawn afresh (R24, R44). -/
theorem inv_respond {bytes : Packet} {s : State} (h : Settled s) (hge : 2 ≤ bytes.length)
    (hle : bytes.length ≤ s.cfg.rspMax) : Inv (respond bytes s) := by
  refine inv_iff_settled.2 ⟨h.congr, ?_, ?_, ?_, ?_⟩
  · simpa using Or.inr hge
  · simpa using hle
  · simpa using freeWork_h_le s.cfg s.free
  · simpa using freeTimers_phaseCnt_le s.cfg (s.free + 17)

/-- The command ends with a response of 2 to RSP_MAX bytes, in a settled state (R61, R85). -/
def Answers (r : Result) : Prop :=
  ∃ bytes s, r = .next (respond bytes s) ∧ Settled s ∧ 2 ≤ bytes.length ∧ bytes.length ≤ s.cfg.rspMax

theorem Answers.inv {r : Result} (h : Answers r) : ∃ t, r = .next t ∧ Inv t := by
  obtain ⟨bytes, s, hr, hs, hge, hle⟩ := h
  exact ⟨_, hr, inv_respond hs hge hle⟩

/-- Responses of up to 14 bytes, INFO's length, always fit (R10). -/
theorem answers_respond {bytes : Packet} {s : State} (h : Settled s) (hge : 2 ≤ bytes.length)
    (hle : bytes.length ≤ 14) : Answers (.next (respond bytes s)) :=
  ⟨bytes, s, rfl, h, hge, hle.trans h.legal.rspMax_info⟩

theorem answers_raise {s : State} (st : Status) (h : Settled s) : Answers (raise st s) :=
  answers_respond h (Nat.le_refl 2) (by simp)

/-! The session commands. -/

section

variable {s : State}

theorem answers_execInfo (h : Settled s) : Answers (execInfo s) :=
  answers_respond (h.setOp opInfo) (by simp [infoResponse]) (by simp [infoResponse])

theorem answers_execConnect (disc flags : Byte) (h : Settled s) : Answers (execConnect disc flags s) := by
  unfold execConnect
  extract_lets s0
  have h0 : Settled s0 := h.setOp opConnect
  clear_value s0
  split_ifs with hdisc haux hflags hq
  · exact answers_raise _ h0
  · exact answers_raise _ h0
  · exact answers_raise _ h0
  · exact answers_raise _ h0
  · have h1 : Settled (clearSession (setAoe (flags.getLsbD 0) s0)) := h0.congr
    have hc : s0.queue.count = 0 := h0.count_eq_zero hq
    have hscan : discOf disc = .scan → s0.cfg.hasAux = true := by
      unfold discOf
      split <;> simp_all
    have hne : discOf disc ≠ .none := by
      unfold discOf
      split <;> simp
    exact answers_respond (h1.selectDiscipline hne (by simpa using hscan) (by simpa using hc))
      (by simp [counterResponse]) (by simp [counterResponse])

/-- A request at or above F_MIN has a half-period in range (R186, R187). -/
theorem halfFor_mem {c : Config} (hl : Legal c) {freq : Nat} (hf : fMin c ≤ freq) :
    c.halfMin ≤ halfFor c freq ∧ halfFor c freq ≤ halfMax c := by
  have hmax : 0 < 2 * halfMax c := by
    have := hl.halfMin_pos
    have := hl.halfMin_le
    omega
  have hpos : 0 < 2 * freq := by
    have : 0 < fMin c := ceilDiv_pos hmax hl.fSys_pos
    omega
  have hsys : c.fSys ≤ halfMax c * (2 * freq) :=
    calc c.fSys ≤ fMin c * (2 * halfMax c) := le_ceilDiv_mul hmax
      _ ≤ freq * (2 * halfMax c) := Nat.mul_le_mul_right _ hf
      _ = halfMax c * (2 * freq) := by ring
  exact ⟨le_max_left _ _, max_le hl.halfMin_le (ceilDiv_le hpos hsys)⟩

theorem answers_execClock (freq : Word) (h : Settled s) : Answers (execClock freq s) := by
  unfold execClock
  extract_lets s0 half
  have h0 : Settled s0 := h.setOp opClock
  split_ifs with hf
  · exact answers_raise _ h0
  · obtain ⟨hge, hle⟩ := halfFor_mem h0.legal (Nat.le_of_not_lt hf)
    exact answers_respond (h0.setHalf hge hle) (by simp) (by simp)

theorem Settled.setResetLine (h : Settled s) (l : Bool) : Settled (setResetLine l s) := h.congr

theorem Settled.holdThenFlip (h : Settled s) (l : Bool) (n : Nat) : Settled (holdThenFlip l n s) :=
  Settled.setResetLine h.congr (!l)

theorem answers_execReset (level : Byte) (duration : Word) (h : Settled s) : Answers (execReset level duration s) := by
  unfold execReset
  extract_lets s0 l s1 s2
  have h0 : Settled s0 := h.setOp opReset
  split_ifs with hlevel
  · exact answers_raise _ h0
  · have h1 : Settled s1 := h0.setResetLine l
    have h2 : Settled s2 := by
      unfold s2
      split_ifs
      · exact h1
      · exact h1.holdThenFlip l _
    exact answers_respond h2 (by simp) (by simp)

/-- ABORT leaves Idle: no discipline, an empty queue, released lines (R192). -/
theorem answers_execAbort (h : Settled s) : Answers (execAbort s) := by
  have h1 : Settled (releaseLines ((clearSession (clearQueue (setOp opAbort s))).setSes
      { (clearSession (clearQueue (setOp opAbort s))).ses with disc := .none, dstate := .idle })) := {
    legal := h.legal
    half_ge := h.half_ge
    half_le := h.half_le
    queueOk := QueueOk.clearQueue (s := setOp opAbort s) h.legal.qcap_pos
    dstate_eq := rfl
    idle_empty := fun _ => rfl
    scan_aux := nofun
    released := fun _ => ⟨rfl, rfl⟩
    driven := fun hn => absurd rfl hn
    field_none := h.field_none }
  exact answers_respond h1 (by simp [counterResponse]) (by simp [counterResponse])

end

/-! The transfer commands. -/

section

variable {s : State}

theorem resultBytes_length (sel : Sel) (st : Status) (v : Word) :
    1 ≤ (resultBytes sel st v).length ∧ (resultBytes sel st v).length ≤ 5 := by
  unfold resultBytes
  split <;> simp

/-- An Operation run with a discipline selected leaves the lines driven low and, of what `Settled` sees, all else. -/
theorem Settled.runOp (h : Settled s) (hd : s.ses.disc ≠ .none) (sel : Sel) (wdata : Word) :
    Settled (runOp sel wdata s).2 := by
  obtain ⟨st, evs, k, ht, -⟩ := runOp_spec (sel := sel) (wdata := wdata) (h.codecReady hd)
  refine h.congr ht.cfg ?_ ?_ ?_ ht.queue (ht.pin.trans (h.driven hd).symm) ?_
  · rw [ht.ses]
  · rw [ht.ses]
  · rw [ht.ses]
  · rw [ht.wire]

theorem Settled.countError (h : Settled s) (st : Status) : Settled (countError st s) := h.congr

theorem answers_xfer (sel : Sel) (value : Word) (h : Settled s) : Answers (xfer sel value s) := by
  unfold xfer
  extract_lets s0 r
  have h0 : Settled s0 := h.setOp opXfer
  clear_value s0
  by_cases hconn : s0.ses.dstate = .connected
  · have hd : s0.ses.disc ≠ .none := h0.disc_ne_none (by simp [hconn])
    have hlen := resultBytes_length sel r.1 r.2.work.rdata
    rw [if_neg (not_not.2 hconn), if_neg (by simp [h0.codecReady hd])]
    exact answers_respond ((h0.runOp hd sel value).countError r.1) (by simp only [List.length_cons]; omega)
      (by simp only [List.length_cons]; omega)
  · rw [if_pos hconn]
    exact answers_raise _ h0

theorem answers_qpush (sel : Sel) (wdata : Option Word) (h : Settled s) : Answers (qpush sel wdata s) := by
  unfold qpush
  extract_lets s0
  have h0 : Settled s0 := h.setOp opQpush
  clear_value s0
  split_ifs with hidle
  · exact answers_raise _ h0
  · split
    next =>
      exact answers_respond h0.congr
        (by simp) (by simp)
    next s1 he => exact answers_respond (h0.enqueue (h0.disc_ne_none hidle) he) (by simp) (by simp)

theorem batchRecords_length_le (es : List Op) (rs : List (Status × Word)) :
    (batchRecords es rs).length ≤ 5 * rs.length := by
  induction es generalizing rs with
  | nil => simp [batchRecords]
  | cons e es ih =>
    cases rs with
    | nil => simp [batchRecords]
    | cons r rs =>
      obtain ⟨-, hrec⟩ := resultBytes_length e.sel r.1 r.2
      have hrest := ih rs
      simp only [batchRecords] at hrest ⊢
      simp only [List.zipWith_cons_cons, List.flatten_cons, List.length_append, List.length_cons]
      omega

/-- The response of a batch of QCAP entries fits (00 R11). -/
theorem answers_execQexec (h : Settled s) : Answers (execQexec s) := by
  unfold execQexec
  extract_lets s0 s1
  have h0 : Settled s0 := h.setOp opQexec
  clear_value s0
  by_cases hidle : s0.ses.dstate = .idle
  · rw [if_pos hidle]
    exact answers_raise _ h0
  · have hd : s0.ses.disc ≠ .none := h0.disc_ne_none hidle
    have hr := h0.codecReady hd
    obtain ⟨rs, evs, hu⟩ := drain_spec s0.queue.count (startBatch s0) rfl h0.queueOk (Or.inr hr) nofun
    have h1 : Settled s1 := h0.drained hd hu
    have hlen : s1.rspBuf.length ≤ 5 * s0.queue.count := by
      have hrsp : s1.rspBuf = batchRecords (entries s0.cfg s0.queue) rs := hu.rspBuf
      have hrs : rs.length = s0.queue.count := hu.rs_length
      rw [hrsp, ← hrs]
      exact batchRecords_length_le _ rs
    have hmax : 5 + 5 * s0.queue.count ≤ s1.cfg.rspMax := by
      have hcfg : s1.cfg = s0.cfg := hu.cfg
      have := h0.legal.rspMax_batch
      have := h0.queueOk.count_le
      rw [hcfg]
      omega
    rw [if_neg hidle, if_neg (by simp [hr])]
    have hall : (batchHeader s1.work ++ s1.rspBuf).length = 5 + s1.rspBuf.length := by
      rw [List.length_append]
      rfl
    exact ⟨_, s1, rfl, h1, by omega, by omega⟩

end

/-- Every command answers from a settled state (60 R263, R265). -/
theorem answers_exec {i : Instr} {s : State} (hi : i.isCommand = true) (h : Settled s) : Answers (exec i s) := by
  cases i with
  | info => exact answers_execInfo h
  | connect disc flags => exact answers_execConnect disc flags h
  | clock freq => exact answers_execClock freq h
  | reset level duration => exact answers_execReset level duration h
  | xferR loc => exact answers_xfer _ _ h
  | xferW loc value => exact answers_xfer _ _ h
  | qpushR loc => exact answers_qpush _ _ h
  | qpushW loc value => exact answers_qpush _ _ h
  | qexec => exact answers_execQexec h
  | abort => exact answers_execAbort h
  | swdReq sel => cases hi
  | swdAck ack => cases hi
  | swdData data par => cases hi
  | scanIr port => cases hi
  | scanDr rnw a2 a3 data => cases hi

/-! Packets decode to commands only (R81). -/

theorem decodeTransfer_isCommand {op : Byte} {f : Loc → Instr} {g : Loc → Word → Instr} {payload : List Byte}
    {i : Instr} (hf : ∀ loc, (f loc).isCommand = true) (hg : ∀ loc v, (g loc v).isCommand = true)
    (h : decodeTransfer op f g payload = .ok i) : i.isCommand = true := by
  unfold decodeTransfer at h
  split at h
  · cases h
  split at h
  · cases h
  simp only at h
  split at h <;> split at h <;> cases h
  · exact hf _
  · exact hg _ _

theorem decodePacket_isCommand {p : Packet} {i : Instr} (h : decodePacket p = .ok i) : i.isCommand = true := by
  unfold decodePacket at h
  split at h
  · cases h
  split_ifs at h
  · unfold decodeInfo at h; split at h <;> cases h; rfl
  · unfold decodeConnect at h; split at h <;> cases h; rfl
  · unfold decodeClock at h; split at h <;> cases h; rfl
  · unfold decodeReset at h; split at h <;> cases h; rfl
  · exact decodeTransfer_isCommand (fun _ => rfl) (fun _ _ => rfl) h
  · exact decodeTransfer_isCommand (fun _ => rfl) (fun _ _ => rfl) h
  · unfold decodeQexec at h; split at h <;> cases h; rfl
  · unfold decodeAbort at h; split at h <;> cases h; rfl

/-- Every packet, well-formed or not, is answered from a settled state (R84, R85). -/
theorem answers_runPacket (p : Packet) {s : State} (h : Settled s) : Answers (runPacket p s) := by
  unfold runPacket
  split
  next i hi => exact answers_exec (decodePacket_isCommand hi) h
  next e _ => exact answers_raise _ (h.setOp e.opcode)

/-! Hardware reset. -/

/-- DPSE's own state at the values of R50 meets the invariant, whatever the inputs and outputs are. -/
theorem inv_of_reset {t : State} (hl : Legal t.cfg) (hses : t.ses = Session.reset t.cfg)
    (hqueue : t.queue = Queue.reset t.cfg) (hpin : t.pin = Pins.reset) (hwork : t.work = Work.reset)
    (htimers : t.timers = Timers.reset) (hrsp : t.rspBuf = []) (hfield : t.wire.field = none) : Inv t := by
  have hs : Settled t := {
    legal := hl
    half_ge := by rw [hses]; exact hl.halfReset_ge
    half_le := by rw [hses]; exact hl.halfReset_le
    queueOk := by rw [hqueue]; exact ⟨List.length_replicate, hl.qcap_pos, Nat.zero_le _⟩
    dstate_eq := by rw [hses]; rfl
    idle_empty := fun _ => by rw [hqueue]; rfl
    scan_aux := by rw [hses]; nofun
    released := fun _ => by rw [hpin]; exact ⟨rfl, rfl⟩
    driven := by rw [hses]; exact fun hn => absurd rfl hn
    field_none := hfield }
  exact inv_iff_settled.2
    ⟨hs, Or.inl hrsp, by simp [hrsp], by simp [hwork, Work.reset], by simp [htimers, Timers.reset]⟩

theorem inv_hwReset {s : State} (hl : Legal s.cfg) : Inv (hwReset s) :=
  inv_of_reset (by simpa using hl) (by simp) (by simp) (by simp) (by simp) (by simp) (by simp) (by simp)

theorem abandon_field (cut : ResetCut) (s t : State) : (abandon cut s t).wire.field = none := by
  simp [abandon]

theorem inv_abandon {s : State} (cut : ResetCut) (t : State) (hl : Legal s.cfg) : Inv (abandon cut s t) :=
  inv_of_reset (by simpa [abandon_cfg] using hl) (by simp [abandon_ses, abandon_cfg])
    (by simp [abandon_queue, abandon_cfg]) abandon_pin abandon_work abandon_timers abandon_rspBuf
    (abandon_field cut s t)

/-! The step. -/

/-- A command, run whole or abandoned by a reset inside it, ends in a state of the invariant. -/
theorem inv_withResetCut {s : State} {r : Result} (hl : Legal s.cfg) (h : ∃ t, r = .next t ∧ Inv t) :
    ∃ t, withResetCut s r = .next t ∧ Inv t := by
  obtain ⟨t, rfl, ht⟩ := h
  unfold withResetCut
  split
  next => exact ⟨t, rfl, ht⟩
  next cut _ => exact ⟨_, rfl, inv_abandon cut t hl⟩

theorem inv_offerResponse {s : State} (h : Inv s) : Inv (offerResponse s) := by
  unfold offerResponse
  split
  · obtain ⟨hs, -, -, hh, hphase⟩ := inv_iff_settled.1 h
    exact inv_iff_settled.2 ⟨hs.congr, by simp, by simp, by simpa using hh, by simpa using hphase⟩
  · exact h

/-- From every state of the invariant the step answers a next state of the invariant. -/
theorem step_inv {s : State} (h : Inv s) : ∃ t, step s = .next t ∧ Inv t := by
  obtain ⟨hs, -⟩ := inv_iff_settled.1 h
  unfold step
  rw [h.field_none]
  split
  · exact ⟨_, rfl, inv_hwReset h.legal⟩
  dsimp only
  split
  · split
    next => exact ⟨s, rfl, h⟩
    next p rest _ => exact inv_withResetCut h.legal (answers_runPacket p (hs.accept p rest)).inv
  · exact ⟨_, rfl, inv_offerResponse h⟩

/-- Settles O18: every command answers from a settled state and leaves one, a hardware reset leaves the reset state, and a
hand-over changes neither. -/
theorem stepKeepsInvariant : Obligations.StepKeepsInvariant := by
  unfold Obligations.StepKeepsInvariant
  intro s t h ht
  obtain ⟨u, hu, hinv⟩ := step_inv h
  rw [ht] at hu
  cases hu
  exact hinv

/-! What a step runs. -/

/-- With no response on offer and no field at the codec, the step takes the packet and runs it (R9). -/
theorem step_packet {s : State} {p : Packet} {rest : List Packet} (hrst : s.host.rstN = true)
    (hcut : s.host.rstCut = none) (hfield : s.wire.field = none) (hrsp : s.rspBuf = [])
    (hcmd : s.host.cmdIn = p :: rest) :
    step s = runPacket p (accept p rest s) := by
  simp [step, withResetCut, hrst, hcut, hfield, hrsp, hcmd]

/-- A field at the codec runs before anything else (R9, log entry 8). -/
theorem step_field {s : State} {ww : WireWord} (hrst : s.host.rstN = true) (hfield : s.wire.field = some ww) :
    step s = runField ww (takeField s) := by
  simp [step, hrst, hfield]

theorem runPacket_ok {p : Packet} {i : Instr} {s : State} (h : decodePacket p = .ok i) : runPacket p s = exec i s := by
  simp [runPacket, h]

theorem runField_ok {ww : WireWord} {i : Instr} {s : State} (h : decodeWire s.cfg ww = .ok i) :
    runField ww s = exec i s := by
  simp [runField, h]

/-- Settles O13: the step runs the packet it takes, and a packet that decodes is run as its command. -/
theorem stepRunsCommand : Obligations.StepRunsCommand := by
  unfold Obligations.StepRunsCommand
  intro s p rest i hrst hcut hfield hrsp hcmd hdec
  exact ⟨(step_packet hrst hcut hfield hrsp hcmd).trans (runPacket_ok hdec), rfl⟩

/-- Settles O14: the step runs the field at the codec, and a word that decodes is run as its field. -/
theorem stepRunsWireField : Obligations.StepRunsWireField := by
  unfold Obligations.StepRunsWireField
  intro s ww i hrst hfield hdec
  exact ⟨(step_field hrst hfield).trans (runField_ok hdec), rfl⟩

end Sys2Proof.Machine
end

section
/-!
SUPPORT. Where a command can end, one lemma per meaning: the state is left as it was but for an answer (`Quiet`), or the
effect has happened and the state is written out (42_session_commands.md, 43_transfer_commands.md).
-/

namespace Sys2Proof.Machine

open Sys2Proof

section

variable {s t : State}

/-- `raise` writes the answer alone (30 R88, R90). -/
theorem quiet_of_raise {op : Byte} {st : Status} (h : raise st (setOp op s) = .next t) : Quiet s t := by
  obtain rfl : errorResponse st (setOp op s) = t := Host.Outcome.next.inj h
  constructor <;> simp

/-! The session commands. -/

theorem execInfo_quiet (h : execInfo s = .next t) : Quiet s t := by
  obtain rfl : respond (infoResponse s.cfg) (setOp opInfo s) = t := Host.Outcome.next.inj h
  constructor <;> simp

/-- CONNECT is refused, or selects a discipline and clears the counters (R183, R184). -/
theorem execConnect_next {disc flags : Byte} (h : execConnect disc flags s = .next t) :
    Quiet s t ∨
      t = respond (counterResponse opConnect s.ses)
        (selectDiscipline (discOf disc) (clearSession (setAoe (flags.getLsbD 0) (setOp opConnect s)))) := by
  unfold execConnect at h
  extract_lets s0 at h
  split_ifs at h
  · exact .inl (quiet_of_raise h)
  · exact .inl (quiet_of_raise h)
  · exact .inl (quiet_of_raise h)
  · exact .inl (quiet_of_raise h)
  · exact .inr (Host.Outcome.next.inj h).symm

/-- CLOCK is refused, or sets S.HALF (R186, R188). -/
theorem execClock_next {freq : Word} (h : execClock freq s = .next t) :
    Quiet s t ∨
      t = respond ([opClock, Status.ok.code] ++ le32 (BitVec.ofNat 32 (rateOf s.cfg (halfFor s.cfg freq.toNat))))
        (setHalf (halfFor s.cfg freq.toNat) (setOp opClock s)) := by
  unfold execClock at h
  extract_lets s0 at h
  split_ifs at h
  · exact .inl (quiet_of_raise h)
  · exact .inr (Host.Outcome.next.inj h).symm

/-- RESET is refused, or sets the reset line, which a timed one then flips back (R189, R190). -/
theorem execReset_next {level : Byte} {duration : Word} (h : execReset level duration s = .next t) :
    Quiet s t ∨
      t = respond [opReset, Status.ok.code, boolByte (level.getLsbD 0)]
          (setResetLine (level.getLsbD 0) (setOp opReset s)) ∨
      t = respond [opReset, Status.ok.code, boolByte !level.getLsbD 0]
          (holdThenFlip (level.getLsbD 0) (resetTicks s.cfg duration)
            (setResetLine (level.getLsbD 0) (setOp opReset s))) := by
  unfold execReset at h
  extract_lets s0 l s1 s2 at h
  split_ifs at h
  · exact .inl (quiet_of_raise h)
  · right
    obtain rfl := Host.Outcome.next.inj h
    unfold s2
    split_ifs
    · exact .inl rfl
    · exact .inr rfl

/-! QPUSH. -/

/-- `enqueue` writes the queue, and draws the unspecified part of the record (R216). -/
theorem enqueue_some {sel : Sel} {wdata : Option Word} (h : enqueue sel wdata s = some t) :
    ∃ q n, t = (s.setQueue q).setFree n := by
  by_cases hfull : s.queue.count = s.cfg.qcap
  · simp [enqueue_full hfull] at h
  · rw [enqueue_room hfull, Option.some.injEq] at h
    exact ⟨_, _, h.symm⟩

/-- QPUSH is refused, or counts an overrun, or appends to the queue (R217, R218). -/
theorem qpush_next {sel : Sel} {wdata : Option Word} (h : qpush sel wdata s = .next t) :
    Quiet s t ∨ t = respond [opQpush, Status.queueFull.code, 0x00#8] (countOverrun (setOp opQpush s)) ∨
      ∃ bytes q n, t = respond bytes (setDState .queuing (((setOp opQpush s).setQueue q).setFree n)) := by
  unfold qpush at h
  extract_lets s0 at h
  split_ifs at h
  · exact .inl (quiet_of_raise h)
  · right
    split at h
    next => exact .inl (Host.Outcome.next.inj h).symm
    next s1 he =>
      obtain ⟨q, n, rfl⟩ := enqueue_some he
      exact .inr ⟨_, q, n, (Host.Outcome.next.inj h).symm⟩

/-! XFER and QEXEC. -/

/-- A saturating count never goes down (10 R26, R28). -/
theorem toNat_le_satInc (v : BitVec 16) : v.toNat ≤ (satInc v).toNat := by
  unfold satInc
  split
  next hv => rw [hv]
  next hv => bv_omega

/-- What running Operations leaves: the configuration and the host channel, and of the Session State all but S.IR_STATE
and S.ERR_CNT, which only counts up (10 R26, R29, 43 R213). -/
structure Operated (s t : State) : Prop where
  cfg : t.cfg = s.cfg
  host : t.host = s.host
  ses : ∃ ir err, t.ses = { s.ses with irState := ir, errCnt := err } ∧ s.ses.errCnt.toNat ≤ err.toNat

/-- An operation that leaves the Session State: that it does is in its own `simp` lemmas. -/
theorem Operated.of_ses_eq (hcfg : t.cfg = s.cfg := by simp) (hhost : t.host = s.host := by simp)
    (hses : t.ses = s.ses := by simp) : Operated s t :=
  ⟨hcfg, hhost, s.ses.irState, s.ses.errCnt, hses, Nat.le_refl _⟩

theorem Operated.trans {u : State} (h : Operated s t) (k : Operated t u) : Operated s u := by
  obtain ⟨ir, err, hses, hle⟩ := h.ses
  obtain ⟨ir2, err2, kses, kle⟩ := k.ses
  rw [hses] at kses kle
  exact ⟨k.cfg.trans h.cfg, k.host.trans h.host, ir2, err2, kses, hle.trans kle⟩

theorem Operated.errCnt_le (h : Operated s t) : s.ses.errCnt.toNat ≤ t.ses.errCnt.toNat := by
  obtain ⟨ir, err, hses, hle⟩ := h.ses
  rw [hses]
  exact hle

theorem Operated.of_quiet (h : Quiet s t) : Operated s t := .of_ses_eq h.cfg h.host h.ses

/-- One transaction counts nothing itself (R213). -/
theorem Transacted.operated {r : Status × State} {st : Status} {evs : List WireEvent} {k : Nat}
    (h : Transacted s r st evs k) : Operated s r.2 :=
  ⟨h.cfg, h.host, r.2.ses.irState, s.ses.errCnt, h.ses, Nat.le_refl _⟩

/-- A final status is counted upwards (R213). -/
theorem toNat_le_counted (st : Status) (v : BitVec 16) : v.toNat ≤ (if st.counted then satInc v else v).toNat := by
  split
  · exact toNat_le_satInc v
  · exact Nat.le_refl _

theorem operated_countError (st : Status) (s : State) : Operated s (countError st s) :=
  ⟨countError_cfg st s, countError_host st s, s.ses.irState, _, countError_ses st s, toNat_le_counted st s.ses.errCnt⟩

/-- XFER is refused, or runs its Operation and counts its status; it leaves the queue (R214, R215). -/
theorem xfer_operated {sel : Sel} {value : Word} (h : xfer sel value s = .next t) :
    Operated s t ∧ t.queue = s.queue := by
  unfold xfer at h
  extract_lets s0 r at h
  split_ifs at h with hconn hready
  · have hq := quiet_of_raise h
    exact ⟨.of_quiet hq, hq.queue⟩
  · obtain rfl := Host.Outcome.next.inj h
    obtain ⟨st, evs, k, ht, -⟩ := runOp_spec (sel := sel) (wdata := value) (eq_true_of_ne_false hready)
    have hop : Operated s (setOp opXfer s) := .of_ses_eq
    have hrun : Operated s r.2 := hop.trans ht.operated
    have hqueue : r.2.queue = s.queue := ht.queue
    exact ⟨(hrun.trans (operated_countError r.1 r.2)).trans .of_ses_eq, by simpa using hqueue⟩

theorem EntryRan.operated {sel : Sel} {st : Status} {v : Word} {evs : List WireEvent} (h : EntryRan s t sel st v evs) :
    Operated s t :=
  ⟨h.cfg, h.host, _, _, h.ses, toNat_le_counted st s.ses.errCnt⟩

/-- A dequeued Operation leaves the codec ready for the next one (R222). -/
theorem EntryRan.ready {sel : Sel} {st : Status} {v : Word} {evs : List WireEvent} (h : EntryRan s t sel st v evs)
    (hr : codecReady s = true) : codecReady t = true := by
  rw [codecReady_iff] at hr ⊢
  obtain ⟨hdisc, -, -, -, haux⟩ := hr
  rw [h.ses, h.pin, h.cfg]
  exact ⟨hdisc, rfl, rfl, rfl, haux⟩

/-- One round of the drain, whatever the queue holds (R222, R225). -/
theorem drainOne_operated (hr : codecReady s = true) : Operated s (drainOne s) ∧ codecReady (drainOne s) = true := by
  cases hs : s.work.stopped with
  | true =>
    rw [drainOne_stopped hs]
    exact ⟨.of_ses_eq rfl rfl rfl, hr⟩
  | false =>
    rw [drainOne_running hs]
    have hdrop : Operated s (dropOldest s) := .of_ses_eq
    obtain ⟨st, v, evs, hran, -⟩ := runEntry_spec (e := oldest s) (s := dropOldest s) hr
    exact ⟨hdrop.trans hran.operated, hran.ready hr⟩

theorem drain_operated (n : Nat) (s : State) (hr : n ≠ 0 → codecReady s = true) : Operated s (drain n s) := by
  induction n generalizing s with
  | zero => exact .of_ses_eq rfl rfl rfl
  | succ n ih =>
    obtain ⟨hone, hready⟩ := drainOne_operated (hr (Nat.succ_ne_zero n))
    exact hone.trans (ih (drainOne s) fun _ => hready)

/-- QEXEC is refused, or drains the queue and ends in Connected (R221, R222). -/
theorem execQexec_next (h : execQexec s = .next t) :
    Quiet s t ∨ ∃ bytes u, t = respond bytes (setDState .connected u) ∧ Operated (startBatch (setOp opQexec s)) u := by
  unfold execQexec at h
  extract_lets s0 s1 at h
  split_ifs at h with hidle hready
  · exact .inl (quiet_of_raise h)
  · refine .inr ⟨_, _, (Host.Outcome.next.inj h).symm, drain_operated _ _ fun hc => ?_⟩
    exact eq_true_of_ne_false fun hn => hready ⟨hc, hn⟩

/-! The wire fields. -/

/-- Only the wire side differs: pins, wire, working registers, timers (41 R142, R160). -/
structure WireSideOnly (s t : State) : Prop where
  cfg : t.cfg = s.cfg
  ses : t.ses = s.ses
  queue : t.queue = s.queue
  host : t.host = s.host

theorem WireSideOnly.trans {u : State} (h : WireSideOnly s t) (k : WireSideOnly t u) : WireSideOnly s u :=
  ⟨k.cfg.trans h.cfg, k.ses.trans h.ses, k.queue.trans h.queue, k.host.trans h.host⟩

theorem wireSideOnly_turnaround (s : State) : WireSideOnly s (turnaround s) := by
  unfold turnaround
  split <;> constructor <;> simp

theorem wireSideOnly_toDrive (s : State) : WireSideOnly s (toDrive s) := by
  unfold toDrive
  split
  · exact ⟨rfl, rfl, rfl, rfl⟩
  · exact wireSideOnly_turnaround s

theorem wireSideOnly_toSample (s : State) : WireSideOnly s (toSample s) := by
  unfold toSample
  split
  · exact wireSideOnly_turnaround s
  · exact ⟨rfl, rfl, rfl, rfl⟩

theorem execSwdReq_wireSideOnly {sel : Sel} (h : execSwdReq sel s = .next t) : WireSideOnly s t := by
  unfold execSwdReq at h
  split_ifs at h
  obtain rfl := Host.Outcome.next.inj h
  have hload : WireSideOnly s (s.setWork { s.work with sel := sel }) := ⟨rfl, rfl, rfl, rfl⟩
  exact (hload.trans (wireSideOnly_toDrive _)).trans (by constructor <;> simp [swdRequest])

theorem execSwdAck_wireSideOnly {ack : BitVec 3} (h : execSwdAck ack s = .next t) : WireSideOnly s t := by
  unfold execSwdAck at h
  split_ifs at h
  obtain rfl := Host.Outcome.next.inj h
  exact (wireSideOnly_toSample s).trans (by constructor <;> simp [swdAcknowledge])

theorem execSwdData_wireSideOnly {data : Word} {par : Bool} (h : execSwdData data par s = .next t) :
    WireSideOnly s t := by
  unfold execSwdData at h
  split_ifs at h <;> obtain rfl := Host.Outcome.next.inj h
  · exact (wireSideOnly_toSample s).trans (by constructor <;> simp [swdReadData])
  · exact (wireSideOnly_toDrive s).trans (by constructor <;> simp [swdWriteData])

theorem execScanDr_wireSideOnly {rnw a2 a3 : Bool} {data : Word} (h : execScanDr rnw a2 a3 data s = .next t) :
    WireSideOnly s t := by
  unfold execScanDr at h
  split_ifs at h
  obtain rfl := Host.Outcome.next.inj h
  cases rnw <;> constructor <;> simp [scanData]

/-- SCAN.IR writes S.IR_STATE beside the wire side (R162). -/
theorem execScanIr_next {port : PortKind} (h : execScanIr port s = .next t) :
    ∃ u, WireSideOnly s u ∧ t = dropShift (setIrState (irOf port) u) := by
  unfold execScanIr at h
  split_ifs at h
  exact ⟨_, by constructor <;> simp, (Host.Outcome.next.inj h).symm⟩

end

end Sys2Proof.Machine
end

section
/-!
The statements of the state: who writes what, the sticky counters, the reset values and the response on offer
(10_state.md R26, R28, R36, R46, R50).
-/

namespace Sys2Proof.Machine

open Sys2Proof

/-- Settles O56: an instruction that is not quiet ends in the state its own lemma writes out, which differs from the old
one in that instruction's rows only. -/
theorem onlyTheseCommandsWrite : Obligations.OnlyTheseCommandsWrite := by
  unfold Obligations.OnlyTheseCommandsWrite
  intro i s t h connect reset xfer qpush
  unfold connect reset xfer qpush
  by_cases hq : Quiet s t
  · simp [rstO, hq.cfg, hq.ses, hq.queue, hq.pin, hq.host, hq.wire]
  cases i with
  | info => exact absurd (execInfo_quiet h) hq
  | connect disc flags =>
    obtain rfl := (execConnect_next h).resolve_left hq
    simp [rstO]
  | clock freq =>
    obtain rfl := (execClock_next h).resolve_left hq
    simp [rstO]
  | reset level duration =>
    obtain rfl | rfl := (execReset_next h).resolve_left hq
    · simp
    · simp [holdThenFlip]
  | xferR loc =>
    obtain ⟨ht, hqueue⟩ := xfer_operated h
    obtain ⟨ir, err, hses, -⟩ := ht.ses
    simp [rstO, hses, ht.cfg, ht.host, hqueue]
  | xferW loc value =>
    obtain ⟨ht, hqueue⟩ := xfer_operated h
    obtain ⟨ir, err, hses, -⟩ := ht.ses
    simp [rstO, hses, ht.cfg, ht.host, hqueue]
  | qpushR loc =>
    obtain rfl | ⟨bytes, q, n, rfl⟩ := (qpush_next h).resolve_left hq <;> simp [rstO]
  | qpushW loc value =>
    obtain rfl | ⟨bytes, q, n, rfl⟩ := (qpush_next h).resolve_left hq <;> simp [rstO]
  | qexec =>
    obtain ⟨bytes, u, rfl, hu⟩ := (execQexec_next h).resolve_left hq
    obtain ⟨ir, err, hses, -⟩ := hu.ses
    simp [rstO, hses, hu.cfg, hu.host, startBatch]
  | abort =>
    obtain rfl := Host.Outcome.next.inj h
    simp [rstO]
  | swdReq sel =>
    have ht := execSwdReq_wireSideOnly h
    simp [rstO, Instr.isCommand, ht.cfg, ht.ses, ht.queue, ht.host]
  | swdAck ack =>
    have ht := execSwdAck_wireSideOnly h
    simp [rstO, Instr.isCommand, ht.cfg, ht.ses, ht.queue, ht.host]
  | swdData data par =>
    have ht := execSwdData_wireSideOnly h
    simp [rstO, Instr.isCommand, ht.cfg, ht.ses, ht.queue, ht.host]
  | scanIr port =>
    obtain ⟨u, hu, rfl⟩ := execScanIr_next h
    simp [rstO, Instr.isCommand, hu.cfg, hu.ses, hu.queue, hu.host]
  | scanDr rnw a2 a3 data =>
    have ht := execScanDr_wireSideOnly h
    simp [rstO, Instr.isCommand, ht.cfg, ht.ses, ht.queue, ht.host]

/-! The counters are sticky. -/

/-- But for CONNECT and ABORT the writers of S.ERR_CNT are the transfers, which count up. -/
theorem exec_errCnt_le {i : Instr} {s t : State} (habort : i ≠ .abort) (hconnect : ∀ d f, i ≠ .connect d f)
    (h : exec i s = .next t) : s.ses.errCnt.toNat ≤ t.ses.errCnt.toNat := by
  by_cases heq : t.ses.errCnt = s.ses.errCnt
  · rw [heq]
  obtain ⟨-, -, -, -, herr, -⟩ := onlyTheseCommandsWrite i s t h
  obtain rfl | ⟨d, f, rfl⟩ | (⟨l, rfl⟩ | ⟨l, v, rfl⟩) | rfl := herr heq
  · exact absurd rfl habort
  · exact absurd rfl (hconnect d f)
  · exact (xfer_operated h).1.errCnt_le
  · exact (xfer_operated h).1.errCnt_le
  · obtain hq | ⟨bytes, u, rfl, hu⟩ := execQexec_next h
    · exact (Operated.of_quiet hq).errCnt_le
    · simpa [startBatch] using hu.errCnt_le

theorem qpush_ovrCnt_le {sel : Sel} {wdata : Option Word} {s t : State} (h : qpush sel wdata s = .next t) :
    s.ses.ovrCnt.toNat ≤ t.ses.ovrCnt.toNat := by
  obtain hq | rfl | ⟨bytes, q, n, rfl⟩ := qpush_next h
  · rw [hq.ses]
  · simpa using toNat_le_satInc s.ses.ovrCnt
  · simp

/-- But for CONNECT and ABORT the writer of S.OVR_CNT is QPUSH, which counts up. -/
theorem exec_ovrCnt_le {i : Instr} {s t : State} (habort : i ≠ .abort) (hconnect : ∀ d f, i ≠ .connect d f)
    (h : exec i s = .next t) : s.ses.ovrCnt.toNat ≤ t.ses.ovrCnt.toNat := by
  by_cases heq : t.ses.ovrCnt = s.ses.ovrCnt
  · rw [heq]
  obtain ⟨-, -, -, -, -, hovr, -⟩ := onlyTheseCommandsWrite i s t h
  obtain rfl | ⟨d, f, rfl⟩ | ⟨l, rfl⟩ | ⟨l, v, rfl⟩ := hovr heq
  · exact absurd rfl habort
  · exact absurd rfl (hconnect d f)
  · exact qpush_ovrCnt_le h
  · exact qpush_ovrCnt_le h

/-- A flag over a counter that has not gone down stays set (R33). -/
theorem bne_zero_of_toNat_le {v w : BitVec 16} (hle : v.toNat ≤ w.toNat) (hv : (v != 0#16) = true) :
    (w != 0#16) = true := by
  rw [bne_iff_ne] at hv ⊢
  bv_omega

/-- Settles O57: every writer of a counter but CONNECT and ABORT counts up. -/
theorem countersAreSticky : Obligations.CountersAreSticky := by
  unfold Obligations.CountersAreSticky
  intro i s t habort hconnect h
  have herr := exec_errCnt_le habort hconnect h
  have hovr := exec_ovrCnt_le habort hconnect h
  exact ⟨herr, hovr, bne_zero_of_toNat_le herr, bne_zero_of_toNat_le hovr⟩

/-! Reset. -/

/-- Settles O9: the reset state holds them as written. -/
theorem resetValues : Obligations.ResetValues := by
  unfold Obligations.ResetValues
  intro c
  exact ⟨rfl, rfl, rfl, rfl, rfl, rfl, rfl, rfl, rfl⟩

/-- Settles O10: the reset state is a state at the values of R50, and each such state meets the invariant. -/
theorem resetMeetsInvariant : Obligations.ResetMeetsInvariant := by
  unfold Obligations.ResetMeetsInvariant
  intro c hl
  exact inv_of_reset (t := State.resetWith c) hl rfl rfl rfl rfl rfl rfl rfl

/-! A response on offer. -/

/-- A response on offer comes before the next packet (R42). -/
theorem step_response {s : State} (hrst : s.host.rstN = true) (hfield : s.wire.field = none) (hrsp : s.rspBuf ≠ []) :
    step s = .next (offerResponse s) := by
  simp [step, hrst, hfield, hrsp]

theorem offerResponse_held {s : State} (h : s.host.rspReady = false) : offerResponse s = s := by
  simp [offerResponse, h]

theorem offerResponse_taken {s : State} (h : s.host.rspReady = true) : offerResponse s = handOver s := by
  simp [offerResponse, h]

/-- Settles O16: the step with a response on offer leaves the state, or hands the response over. -/
theorem responseHeldUntilTaken : Obligations.ResponseHeldUntilTaken := by
  unfold Obligations.ResponseHeldUntilTaken
  intro s hrst hfield hrsp
  have hstep := step_response hrst hfield hrsp
  refine ⟨by simp [cmdReady, hrsp], by simp [rspValid, hrst, hrsp], fun hwait => ?_, fun htake => ?_⟩
  · rw [hstep, offerResponse_held hwait]
  · rw [offerResponse_taken htake] at hstep
    exact ⟨handOver s, hstep, by simp [cmdReady, hrst]⟩

end Sys2Proof.Machine
end

section
/-!
The statements of the channels to the host and to the target (20_memory.md R72, R75): no state is stuck, and the target
cannot reach what does not touch the wire.
-/

namespace Sys2Proof.Machine

open Sys2Proof

/-- Settles O19: a command answers, a hardware reset, a hand-over and a wait each have a next state, and in the invariant
no wire field stands at the codec. -/
theorem noStuckState : Obligations.NoStuckState := by
  unfold Obligations.NoStuckState
  intro s h
  obtain ⟨t, ht, -⟩ := step_inv h
  exact ⟨t, ht⟩

/-! The target's answers. -/

/-- The same state before a target that answers otherwise: its listed answers and the place among the free ones (R72, log
entry 3) are replaced. -/
def withAnswers (answers : List Bool) (drawn : Nat) (s : State) : State :=
  s.setWire { s.wire with answers := answers, drawn := drawn }

section

variable (answers : List Bool) (drawn : Nat) (s : State)

@[simp] theorem withAnswers_ses : (withAnswers answers drawn s).ses = s.ses := rfl
@[simp] theorem withAnswers_queue : (withAnswers answers drawn s).queue = s.queue := rfl
@[simp] theorem withAnswers_pin : (withAnswers answers drawn s).pin = s.pin := rfl
@[simp] theorem withAnswers_rspBuf : (withAnswers answers drawn s).rspBuf = s.rspBuf := rfl
@[simp] theorem withAnswers_trace : (withAnswers answers drawn s).wire.trace = s.wire.trace := rfl

theorem setOp_withAnswers (op : Byte) :
    setOp op (withAnswers answers drawn s) = withAnswers answers drawn (setOp op s) := rfl

/-- The queue operation neither reads the target's answers nor uses them up (R216). -/
theorem enqueue_withAnswers (sel : Sel) (wdata : Option Word) :
    enqueue sel wdata (withAnswers answers drawn s) = (enqueue sel wdata s).map (withAnswers answers drawn) := by
  by_cases hfull : s.queue.count = s.cfg.qcap
  · rw [enqueue_full hfull, enqueue_full (s := withAnswers answers drawn s) hfull]
    rfl
  · rw [enqueue_room hfull, enqueue_room (s := withAnswers answers drawn s) hfull]
    rfl

end

/-- Two results that are next states equal but for the target's answers, which are the given ones in the second. -/
def SameBesideAnswers (answers : List Bool) (drawn : Nat) (r r2 : Result) : Prop :=
  ∃ t, r = .next t ∧ r2 = .next (withAnswers answers drawn t)

section

variable {answers : List Bool} {drawn : Nat}

theorem SameBesideAnswers.next {t : State} :
    SameBesideAnswers answers drawn (.next t) (.next (withAnswers answers drawn t)) :=
  ⟨t, rfl, rfl⟩

/-- A test that does not read the target's answers sends both runs down the same branch. -/
theorem SameBesideAnswers.ite {p : Prop} [Decidable p] {r r2 x x2 : Result}
    (hr : SameBesideAnswers answers drawn r r2) (hx : SameBesideAnswers answers drawn x x2) :
    SameBesideAnswers answers drawn (if p then r else x) (if p then r2 else x2) := by
  split_ifs
  · exact hr
  · exact hx

end

/-- The meaning of a command off the wire: it answers before every target, and two targets see the same next state but for
their own answers, which stand as they were (R72). -/
def IgnoresTarget (f : State → Result) : Prop :=
  ∀ (answers : List Bool) (drawn : Nat) (s : State),
    SameBesideAnswers answers drawn (f s) (f (withAnswers answers drawn s))

theorem ignoresTarget_raise (st : Status) : IgnoresTarget (raise st) := fun _ _ _ => .next

theorem ignoresTarget_execInfo : IgnoresTarget execInfo := fun _ _ _ => .next

/-- The refusals of CONNECT test its operands, the configuration and S.DSTATE (R183). -/
theorem ignoresTarget_execConnect (disc flags : Byte) : IgnoresTarget (execConnect disc flags) := by
  intro answers drawn s
  have refused (st : Status) := ignoresTarget_raise st answers drawn (setOp opConnect s)
  exact .ite (refused .badCommand) (.ite (refused .badCommand) (.ite (refused .badCommand)
    (.ite (refused .badState) .next)))

/-- The refusal of CLOCK tests its operand and the configuration (R188). -/
theorem ignoresTarget_execClock (freq : Word) : IgnoresTarget (execClock freq) :=
  fun answers drawn s => .ite (ignoresTarget_raise .badCommand answers drawn (setOp opClock s)) .next

/-- RESET tests its operands alone, once for the refusal and once for a timed pulse (R189). -/
theorem ignoresTarget_execReset (level : Byte) (duration : Word) : IgnoresTarget (execReset level duration) := by
  intro answers drawn s
  refine .ite (ignoresTarget_raise .badCommand answers drawn (setOp opReset s)) ?_
  by_cases htimed : duration = 0#32
  · simp only [if_pos htimed]
    exact .next
  · simp only [if_neg htimed]
    exact .next

/-- QPUSH tests S.DSTATE and whether the queue is full (R217, R218). -/
theorem ignoresTarget_qpush (sel : Sel) (wdata : Option Word) : IgnoresTarget (qpush sel wdata) := by
  intro answers drawn s
  refine .ite (ignoresTarget_raise .badState answers drawn (setOp opQpush s)) ?_
  rw [setOp_withAnswers, enqueue_withAnswers]
  cases enqueue sel wdata (setOp opQpush s) with
  | none => exact .next
  | some s1 => exact .next

theorem ignoresTarget_execAbort : IgnoresTarget execAbort := fun _ _ _ => .next

/-- The commands that do not touch the wire are all but XFER and QEXEC (R72). -/
theorem ignoresTarget_exec {i : Instr} (hi : i.isCommand = true) (hread : ∀ l, i ≠ .xferR l)
    (hwrite : ∀ l v, i ≠ .xferW l v) (hqexec : i ≠ .qexec) : IgnoresTarget (exec i) := by
  cases i with
  | info => exact ignoresTarget_execInfo
  | connect disc flags => exact ignoresTarget_execConnect disc flags
  | clock freq => exact ignoresTarget_execClock freq
  | reset level duration => exact ignoresTarget_execReset level duration
  | xferR loc => exact absurd rfl (hread loc)
  | xferW loc value => exact absurd rfl (hwrite loc value)
  | qpushR loc => exact ignoresTarget_qpush _ _
  | qpushW loc value => exact ignoresTarget_qpush _ _
  | qexec => exact absurd rfl hqexec
  | abort => exact ignoresTarget_execAbort
  | swdReq sel => cases hi
  | swdAck ack => cases hi
  | swdData data par => cases hi
  | scanIr port => cases hi
  | scanDr rnw a2 a3 data => cases hi

/-- Settles O60: before the other target the command ends in the same state with that target's answers, which the
response, the Session State, the queue, the pins and the trace are no part of. -/
theorem targetCannotReachSession : Obligations.TargetCannotReachSession := by
  unfold Obligations.TargetCannotReachSession
  intro i s t answers drawn hi hread hwrite hqexec h
  obtain ⟨u, hu, hother⟩ := ignoresTarget_exec hi hread hwrite hqexec answers drawn s
  obtain rfl : u = t := Host.Outcome.next.inj (hu.symm.trans h)
  exact ⟨withAnswers answers drawn u, hother, by simp⟩

end Sys2Proof.Machine
end

section
/-!
SUPPORT. The packets: for every command the decoder's answer to its packet, and from every accepted packet the command
it is the encoding of (30_encoding.md R80 to R84, R91 to R96). The statements about packets follow from these two.
-/

namespace Sys2Proof.Machine

open Sys2Proof

/-! The payload of XFER and QPUSH: SEL, and VALUE exactly for a write (R92, R93). -/

section

variable (op : Byte) (readForm : Loc → Instr) (writeForm : Loc → Word → Instr) (loc : Loc)

theorem decodeTransfer_read : decodeTransfer op readForm writeForm [selByte loc true] = .ok (readForm loc) := by
  obtain ⟨hreserved, hsel, -⟩ := selByte_fields loc true
  simp [decodeTransfer, hreserved, hsel]

theorem decodeTransfer_write (value : Word) :
    decodeTransfer op readForm writeForm (selByte loc false :: le32 value) = .ok (writeForm loc value) := by
  obtain ⟨hreserved, hsel, -⟩ := selByte_fields loc false
  simp [decodeTransfer, hreserved, hsel, le32, u32le_of_le32]

end

/-- The decoder reads a SEL byte without reserved bits, nothing behind it for a read, one value for a write (R84 step
3). -/
theorem decodeTransfer_ok {op : Byte} {readForm : Loc → Instr} {writeForm : Loc → Word → Instr} {payload : List Byte}
    {i : Instr} (h : decodeTransfer op readForm writeForm payload = .ok i) :
    (∃ loc, i = readForm loc ∧ payload = [selByte loc true]) ∨
      ∃ loc value, i = writeForm loc value ∧ payload = selByte loc false :: le32 value := by
  unfold decodeTransfer at h
  split at h
  next => cases h
  next b value =>
    split at h
    next => cases h
    next hreserved =>
      have hb := selByte_of_fields b (not_not.1 hreserved)
      dsimp only at h
      split at h
      next hread =>
        rw [hread] at hb
        split at h <;> cases h
        exact .inl ⟨_, rfl, by rw [hb]⟩
      next hwrite =>
        rw [eq_false_of_ne_true hwrite] at hb
        split at h <;> cases h
        exact .inr ⟨_, _, rfl, by rw [hb, le32_of_u32le]⟩

/-! Decode and encode. -/

/-- Settles O1: each command's own decoder reads the fields the encoder wrote; XFER and QPUSH by the two rules above. -/
theorem decodeEncodeCommand : Obligations.DecodeEncodeCommand := by
  unfold Obligations.DecodeEncodeCommand
  intro i hi
  cases i with
  | info => rfl
  | connect disc flags => rfl
  | clock freq => exact congrArg (fun w => Except.ok (Instr.clock w)) (u32le_of_le32 freq)
  | reset level duration => exact congrArg (fun w => Except.ok (Instr.reset level w)) (u32le_of_le32 duration)
  | xferR loc => exact decodeTransfer_read opXfer .xferR .xferW loc
  | xferW loc value => exact decodeTransfer_write opXfer .xferR .xferW loc value
  | qpushR loc => exact decodeTransfer_read opQpush .qpushR .qpushW loc
  | qpushW loc value => exact decodeTransfer_write opQpush .qpushR .qpushW loc value
  | qexec => rfl
  | abort => rfl
  | swdReq sel => cases hi
  | swdAck ack => cases hi
  | swdData data par => cases hi
  | scanIr port => cases hi
  | scanDr rnw a2 a3 data => cases hi

/-- An accepted packet is written back byte for byte (R80). -/
theorem encodePacket_of_decodePacket {p : Packet} {i : Instr} (h : decodePacket p = .ok i) : encodePacket i = p := by
  unfold decodePacket at h
  split at h
  next => cases h
  next op payload =>
    split_ifs at h with hop hop hop hop hop hop hop hop <;> subst hop
    · unfold decodeInfo at h; split at h <;> cases h; rfl
    · unfold decodeConnect at h; split at h <;> cases h; rfl
    · unfold decodeClock at h; split at h <;> cases h
      exact congrArg (opClock :: ·) (le32_of_u32le ..)
    · unfold decodeReset at h; split at h <;> cases h
      exact congrArg (opReset :: _ :: ·) (le32_of_u32le ..)
    · obtain ⟨loc, rfl, rfl⟩ | ⟨loc, value, rfl, rfl⟩ := decodeTransfer_ok h <;> rfl
    · obtain ⟨loc, rfl, rfl⟩ | ⟨loc, value, rfl, rfl⟩ := decodeTransfer_ok h <;> rfl
    · unfold decodeQexec at h; split at h <;> cases h; rfl
    · unfold decodeAbort at h; split at h <;> cases h; rfl

/-- Settles O3: only commands have packets, and each branch of the decoder reads every byte of the packet into a
field. -/
theorem acceptedPacketIsItsEncoding : Obligations.AcceptedPacketIsItsEncoding := by
  unfold Obligations.AcceptedPacketIsItsEncoding
  intro p i h
  exact ⟨decodePacket_isCommand h, encodePacket_of_decodePacket h⟩

/-- The accepted packets are the packets of the commands. -/
theorem exists_decodePacket_iff {p : Packet} :
    (∃ i, decodePacket p = .ok i) ↔ ∃ i, i.isCommand = true ∧ encodePacket i = p := by
  constructor
  · rintro ⟨i, h⟩
    exact ⟨i, acceptedPacketIsItsEncoding p i h⟩
  · rintro ⟨i, hi, rfl⟩
    exact ⟨i, decodeEncodeCommand i hi⟩

/-! Length and reserved bits (R83, R84 step 3). -/

/-- What step 3 of `Decode` asks of a packet: the length of R83, and no reserved bit in the SEL of XFER and QPUSH. -/
def WellSized (p : Packet) : Prop :=
  packetLength (p.getD 0 0#8) (p.getD 1 0#8) = some p.length ∧
    (p.getD 0 0#8 = opXfer ∨ p.getD 0 0#8 = opQpush → (p.getD 1 0#8).extractLsb' 4 4 = 0#4)

section

variable {op : Byte} (hop : op = opXfer ∨ op = opQpush)

include hop

theorem packetLength_transfer (b : Byte) : packetLength op b = some (if b.getLsbD 1 then 2 else 6) := by
  obtain rfl | rfl := hop
  · exact packetLength_xfer b
  · exact packetLength_qpush b

theorem wellSized_read (loc : Loc) : WellSized [op, selByte loc true] := by
  obtain ⟨hreserved, -, hread⟩ := selByte_fields loc true
  exact ⟨(packetLength_transfer hop (selByte loc true)).trans (by rw [hread]; rfl), fun _ => hreserved⟩

theorem wellSized_write (loc : Loc) (value : Word) : WellSized (op :: selByte loc false :: le32 value) := by
  obtain ⟨hreserved, -, hread⟩ := selByte_fields loc false
  exact ⟨(packetLength_transfer hop (selByte loc false)).trans (by rw [hread]; rfl), fun _ => hreserved⟩

end

theorem wellSized_encodePacket {i : Instr} (hi : i.isCommand = true) : WellSized (encodePacket i) := by
  cases i with
  | info => exact ⟨rfl, nofun⟩
  | connect disc flags => exact ⟨rfl, nofun⟩
  | clock freq => exact ⟨rfl, nofun⟩
  | reset level duration => exact ⟨rfl, nofun⟩
  | xferR loc => exact wellSized_read (.inl rfl) loc
  | xferW loc value => exact wellSized_write (.inl rfl) loc value
  | qpushR loc => exact wellSized_read (.inr rfl) loc
  | qpushW loc value => exact wellSized_write (.inr rfl) loc value
  | qexec => exact ⟨rfl, nofun⟩
  | abort => exact ⟨rfl, nofun⟩
  | swdReq sel => cases hi
  | swdAck ack => cases hi
  | swdData data par => cases hi
  | scanIr port => cases hi
  | scanDr rnw a2 a3 data => cases hi

/-- Four bytes are a 32-bit field (R13). -/
theorem eq_le32_of_length {bytes : List Byte} (h : bytes.length = 4) : ∃ value, bytes = le32 value := by
  match bytes, h with
  | [a, b, c, d], _ => exact ⟨u32le a b c d, (le32_of_u32le a b c d).symm⟩

/-- A payload of the length that its SEL byte asks for, without reserved bits, is that of a read or of a write (R93). -/
theorem transferPayload_of_length {payload : List Byte} (hreserved : (payload.getD 0 0#8).extractLsb' 4 4 = 0#4)
    (hlen : payload.length + 1 = if (payload.getD 0 0#8).getLsbD 1 then 2 else 6) :
    (∃ loc, payload = [selByte loc true]) ∨ ∃ loc value, payload = selByte loc false :: le32 value := by
  match payload with
  | [] => cases hlen
  | b :: value =>
    rw [List.getD_cons_zero] at hreserved hlen
    have hb := selByte_of_fields b hreserved
    have hbit : selIsRead (b.extractLsb' 0 4) = b.getLsbD 1 := by simp [selIsRead]
    rw [hbit] at hb
    cases hread : b.getLsbD 1 with
    | true =>
      rw [hread] at hb hlen
      obtain rfl : value = [] := List.eq_nil_of_length_eq_zero (by simpa using hlen)
      exact .inl ⟨_, by rw [hb]⟩
    | false =>
      rw [hread] at hb hlen
      obtain ⟨v, rfl⟩ := eq_le32_of_length (bytes := value) (by simpa using hlen)
      exact .inr ⟨_, v, by rw [hb]⟩

/-- The rows of R83 are all there is. -/
theorem packetLength_some {op b1 : Byte} {n : Nat} (h : packetLength op b1 = some n) :
    (op = opInfo ∨ op = opQexec ∨ op = opAbort) ∧ n = 1 ∨ op = opConnect ∧ n = 3 ∨ op = opClock ∧ n = 5 ∨
      op = opReset ∧ n = 6 ∨ (op = opXfer ∨ op = opQpush) ∧ n = if b1.getLsbD 1 then 2 else 6 := by
  unfold packetLength at h
  split at h
  next hop => exact .inl ⟨hop, (Option.some.inj h).symm⟩
  split at h
  next hop => exact .inr (.inl ⟨hop, (Option.some.inj h).symm⟩)
  split at h
  next hop => exact .inr (.inr (.inl ⟨hop, (Option.some.inj h).symm⟩))
  split at h
  next hop => exact .inr (.inr (.inr (.inl ⟨hop, (Option.some.inj h).symm⟩)))
  split at h
  next hop => exact .inr (.inr (.inr (.inr ⟨hop, (Option.some.inj h).symm⟩)))
  cases h

/-- Every packet of the right length, without reserved bits, is the packet of a command: one case per row of R81. -/
theorem exists_command_of_wellSized {p : Packet} (h : WellSized p) :
    ∃ i : Instr, i.isCommand = true ∧ encodePacket i = p := by
  obtain ⟨hlen, hreserved⟩ := h
  match p with
  | [] => cases hlen
  | op :: payload =>
    rw [List.getD_cons_zero, List.getD_cons_succ] at hlen hreserved
    obtain ⟨hop, hn⟩ | ⟨rfl, hn⟩ | ⟨rfl, hn⟩ | ⟨rfl, hn⟩ | ⟨hop, hn⟩ := packetLength_some hlen
    · obtain rfl : payload = [] := List.eq_nil_of_length_eq_zero (Nat.succ.inj hn)
      obtain rfl | rfl | rfl := hop
      · exact ⟨.info, rfl, rfl⟩
      · exact ⟨.qexec, rfl, rfl⟩
      · exact ⟨.abort, rfl, rfl⟩
    · match payload, hn with
      | [disc, flags], _ => exact ⟨.connect disc flags, rfl, rfl⟩
    · obtain ⟨freq, rfl⟩ := eq_le32_of_length (Nat.succ.inj hn)
      exact ⟨.clock freq, rfl, rfl⟩
    · match payload, hn with
      | level :: bytes, hn =>
        obtain ⟨duration, rfl⟩ := eq_le32_of_length (Nat.succ.inj (Nat.succ.inj hn))
        exact ⟨.reset level duration, rfl, rfl⟩
    · obtain ⟨loc, rfl⟩ | ⟨loc, value, rfl⟩ := transferPayload_of_length (hreserved hop) hn
      · obtain rfl | rfl := hop
        · exact ⟨.xferR loc, rfl, rfl⟩
        · exact ⟨.qpushR loc, rfl, rfl⟩
      · obtain rfl | rfl := hop
        · exact ⟨.xferW loc value, rfl, rfl⟩
        · exact ⟨.qpushW loc value, rfl, rfl⟩

/-- Settles O4: the lengths are the rows of R83; an accepted packet is a command's, which has the right length and no
reserved bit, and every such packet is a command's. -/
theorem decoderAcceptsExactly : Obligations.DecoderAcceptsExactly := by
  unfold Obligations.DecoderAcceptsExactly
  refine ⟨fun b1 => ⟨rfl, rfl, rfl, rfl, rfl, rfl, fun op hop => packetLength_transfer hop b1⟩, fun p => ?_⟩
  calc (∃ i, decodePacket p = .ok i)
    _ ↔ ∃ i, i.isCommand = true ∧ encodePacket i = p := exists_decodePacket_iff
    _ ↔ WellSized p := ⟨fun ⟨i, hi, hp⟩ => hp ▸ wellSized_encodePacket hi, exists_command_of_wellSized⟩

end Sys2Proof.Machine
end

section
/-!
SUPPORT. The wire words: the bits of the request header and of the data-register word, and what their decoders read from
them (30_encoding.md R97 to R101).
-/

namespace Sys2Proof.Machine

open Sys2Proof

/-! The request header (R97). -/

/-- Bits 1 to 4 of the header are the selector. -/
theorem header_sel (sel : Sel) : (header sel).extractLsb' 1 4 = sel := by
  revert sel
  decide

theorem decodeHeader_header (sel : Sel) : decodeHeader (header sel) = .ok (.swdReq sel) := by
  revert sel
  decide

/-- Settles O6: the bits by going through the sixteen selectors; two selectors with one header are both its bits 1
to 4. -/
theorem headerLayout : Obligations.HeaderLayout := by
  unfold Obligations.HeaderLayout
  refine ⟨by decide, fun a b hab => ?_⟩
  calc a = (header a).extractLsb' 1 4 := (header_sel a).symm
    _ = (header b).extractLsb' 1 4 := by rw [hab]
    _ = b := header_sel b

/-! The data phase (R99). -/

theorem dataWord_data (v : Word) (par : Bool) : (dataWord v par).setWidth 32 = v := by
  apply BitVec.eq_of_getLsbD_eq
  intro i hi
  simp [dataWord, hi]

theorem dataWord_par (v : Word) (par : Bool) : (dataWord v par).getLsbD 32 = par := by
  simp [dataWord]

/-! The data-register word (R101). -/

/-- RnW, A2 and A3 in the three low bits, the data above them. -/
theorem getLsbD_scanWordOf (rnw a2 a3 : Bool) (data : Word) :
    (scanWordOf rnw a2 a3 data).getLsbD 0 = rnw ∧ (scanWordOf rnw a2 a3 data).getLsbD 1 = a2 ∧
      (scanWordOf rnw a2 a3 data).getLsbD 2 = a3 ∧
      ∀ i < 32, (scanWordOf rnw a2 a3 data).getLsbD (i + 3) = (if rnw then 0#32 else data).getLsbD i := by
  unfold scanWordOf
  generalize (if rnw = true then 0#32 else data) = d
  refine ⟨?_, ?_, ?_, fun i hi => ?_⟩
  · simp
  · simp
  · simp
  · simp [hi, show i + 3 < 35 by omega]

theorem scanWordOf_data (rnw a2 a3 : Bool) (data : Word) :
    (scanWordOf rnw a2 a3 data).extractLsb' 3 32 = if rnw then 0#32 else data := by
  obtain ⟨-, -, -, hdata⟩ := getLsbD_scanWordOf rnw a2 a3 data
  apply BitVec.eq_of_getLsbD_eq
  intro i hi
  rw [BitVec.getLsbD_extractLsb', Nat.add_comm, hdata i hi, decide_eq_true hi, Bool.true_and]

/-- The word bit 0 first, as it goes on the wire. -/
theorem bits_scanWordOf (rnw a2 a3 : Bool) (data : Word) :
    bitsLsbFirst (scanWordOf rnw a2 a3 data) 35 =
      [rnw, a2, a3] ++ bitsLsbFirst (if rnw then 0#32 else data) 32 := by
  obtain ⟨hrnw, ha2, ha3, hdata⟩ := getLsbD_scanWordOf rnw a2 a3 data
  apply List.ext_getElem
  · simp
  · intro i h1 h2
    match i with
    | 0 => simpa [bitsLsbFirst] using hrnw
    | 1 => simpa [bitsLsbFirst] using ha2
    | 2 => simpa [bitsLsbFirst] using ha3
    | i + 3 =>
      have hi : i + 3 < 35 := by simpa using h1
      simpa [bitsLsbFirst] using hdata i (by omega)

theorem decodeScanWord_scanWordOf (rnw a2 a3 : Bool) (data : Word) :
    decodeScanWord (scanWordOf rnw a2 a3 data) = .ok (.scanDr rnw a2 a3 (if rnw then 0#32 else data)) := by
  obtain ⟨hrnw, ha2, ha3, -⟩ := getLsbD_scanWordOf rnw a2 a3 data
  unfold decodeScanWord
  rw [hrnw, ha2, ha3, scanWordOf_data]
  cases rnw <;> simp

/-- A well-formed SCAN.DR names the data bits that go out. -/
theorem data_of_wfScanDr {rnw : Bool} {data : Word} (h : wfScanDr rnw data = true) :
    (if rnw then 0#32 else data) = data := by
  cases rnw
  · rfl
  · exact (eq_of_beq h).symm

/-- The word the encoder writes for a well-formed SCAN.DR is the one DPSE shifts out. -/
theorem encode_scanDr {rnw : Bool} {data : Word} (c : Config) (a2 a3 : Bool) (h : wfScanDr rnw data = true) :
    encode c (.scanDr rnw a2 a3 data) = .wire { field := .dr, bits := (scanWordOf rnw a2 a3 data).toNat } := by
  unfold scanWordOf
  rw [data_of_wfScanDr h]
  rfl

/-! The chain-select field (R100). -/

/-- The two ports have different codes (R10). -/
theorem decodeChain_scanIrCode {c : Config} (hl : Legal c) (port : PortKind) :
    decodeChain c (scanIrCode c port) = .ok (.scanIr port) := by
  cases port with
  | dp => exact if_pos rfl
  | ap => exact (if_neg hl.scanIr_ne).trans (if_pos rfl)

theorem scanIrCode_lt {c : Config} (hl : Legal c) (port : PortKind) :
    (scanIrCode c port).toNat < 2 ^ c.scanIrLen := by
  cases port with
  | dp => exact hl.scanIrDp_lt
  | ap => exact hl.scanIrAp_lt

/-! Decode and encode. -/

/-- Settles O2: each field's word fits its width, and its decoder reads the bits the encoder wrote. -/
theorem decodeEncodeWireField : Obligations.DecodeEncodeWireField := by
  unfold Obligations.DecodeEncodeWireField
  intro c i hl hi hwf
  cases i with
  | info => cases hi
  | connect disc flags => cases hi
  | clock freq => cases hi
  | reset level duration => cases hi
  | xferR loc => cases hi
  | xferW loc value => cases hi
  | qpushR loc => cases hi
  | qpushW loc value => cases hi
  | qexec => cases hi
  | abort => cases hi
  | swdReq sel => exact ⟨_, rfl, (decodeWire_req c (header sel)).trans (decodeHeader_header sel)⟩
  | swdAck ack => exact ⟨_, rfl, decodeWire_ack c ack⟩
  | swdData data par =>
    refine ⟨_, rfl, ?_⟩
    rw [decodeWire_data, dataWord_data, dataWord_par]
  | scanIr port =>
    exact ⟨_, rfl, (decodeWire_ir c _ (scanIrCode_lt hl port)).trans (decodeChain_scanIrCode hl port)⟩
  | scanDr rnw a2 a3 data =>
    refine ⟨_, encode_scanDr c a2 a3 hwf, ?_⟩
    rw [decodeWire_dr, decodeScanWord_scanWordOf, data_of_wfScanDr hwf]

/-- Settles O5: the decoder run on each word. -/
theorem sampleWordsDecode : Obligations.SampleWordsDecode := by
  unfold Obligations.SampleWordsDecode
  decide

end Sys2Proof.Machine
end

section
/-!
SUPPORT. The wire fields run as steps of the codec's own level (log entry 8): the line brought into the field's
direction, then the field (30_encoding.md R97 to R101, 41_transaction_codec.md).
-/

namespace Sys2Proof.Machine

open Sys2Proof

/-- What `swdReady` asks of the pins but for the clock level (40 R126). -/
theorem swdReady_clkOE {s : State} (h : swdReady s = true) : s.pin.clkOE = true := by
  simp only [swdReady, Bool.and_eq_true] at h
  obtain ⟨⟨-, hoe⟩, -⟩ := h
  exact hoe

/-- What `scanReady` asks of the pins but for the clock level (40 R126). -/
theorem scanReady_driven {s : State} (h : scanReady s = true) : s.pin.clkOE = true ∧ s.pin.dioOE = true := by
  simp only [scanReady, Bool.and_eq_true] at h
  obtain ⟨⟨⟨⟨-, hoe⟩, -⟩, hd⟩, -⟩ := h
  exact ⟨hoe, hd⟩

/-! The line brought into the drive or the sample direction (40 R121, R127). -/

section

variable (s : State)

theorem toDrive_driving (h : s.pin.dioOE = true) : toDrive s = s := by
  simp [toDrive, h]

theorem toDrive_sampling (h : s.pin.dioOE = false) : toDrive s = turnToDrive s := by
  simp [toDrive, h, turnaround_sampling h]

theorem toSample_driving (h : s.pin.dioOE = true) : toSample s = turnToSample s := by
  simp [toSample, h, turnaround_driving h]

theorem toSample_sampling (h : s.pin.dioOE = false) : toSample s = s := by
  simp [toSample, h]

@[simp] theorem toDrive_cfg : (toDrive s).cfg = s.cfg := (wireSideOnly_toDrive s).cfg
@[simp] theorem toDrive_ses : (toDrive s).ses = s.ses := (wireSideOnly_toDrive s).ses
@[simp] theorem toDrive_queue : (toDrive s).queue = s.queue := (wireSideOnly_toDrive s).queue
@[simp] theorem toDrive_host : (toDrive s).host = s.host := (wireSideOnly_toDrive s).host

@[simp] theorem toDrive_rspBuf : (toDrive s).rspBuf = s.rspBuf := by
  cases h : s.pin.dioOE with
  | true => rw [toDrive_driving s h]
  | false => simp [toDrive_sampling s h]

@[simp] theorem toDrive_clkOE : (toDrive s).pin.clkOE = s.pin.clkOE := by
  cases h : s.pin.dioOE with
  | true => rw [toDrive_driving s h]
  | false => simp [toDrive_sampling s h]

@[simp] theorem toDrive_dioOE : (toDrive s).pin.dioOE = true := by
  cases h : s.pin.dioOE with
  | true => rw [toDrive_driving s h, h]
  | false => simp [toDrive_sampling s h]

@[simp] theorem toDrive_wire :
    (toDrive s).wire =
      { s.wire with trace := s.wire.trace ++ if s.pin.dioOE then [] else turns s.cfg s.ses.half } := by
  cases h : s.pin.dioOE with
  | true => simp [toDrive_driving s h]
  | false => simp [toDrive_sampling s h, turns]

/-- W.SEL is written before the line is turned: the driver does not see it (R142). -/
theorem toDrive_setSel (sel : Sel) :
    toDrive (s.setWork { s.work with sel := sel }) = (toDrive s).setWork { (toDrive s).work with sel := sel } := by
  cases h : s.pin.dioOE with
  | true => rw [toDrive_driving s h]; exact toDrive_driving _ h
  | false => rw [toDrive_sampling s h]; exact toDrive_sampling _ h

@[simp] theorem toSample_cfg : (toSample s).cfg = s.cfg := (wireSideOnly_toSample s).cfg
@[simp] theorem toSample_ses : (toSample s).ses = s.ses := (wireSideOnly_toSample s).ses
@[simp] theorem toSample_queue : (toSample s).queue = s.queue := (wireSideOnly_toSample s).queue
@[simp] theorem toSample_host : (toSample s).host = s.host := (wireSideOnly_toSample s).host

@[simp] theorem toSample_rspBuf : (toSample s).rspBuf = s.rspBuf := by
  cases h : s.pin.dioOE with
  | true => simp [toSample_driving s h]
  | false => rw [toSample_sampling s h]

@[simp] theorem toSample_clkOE : (toSample s).pin.clkOE = s.pin.clkOE := by
  cases h : s.pin.dioOE with
  | true => simp [toSample_driving s h]
  | false => rw [toSample_sampling s h]

@[simp] theorem toSample_dioOE : (toSample s).pin.dioOE = false := by
  cases h : s.pin.dioOE with
  | true => simp [toSample_driving s h]
  | false => rw [toSample_sampling s h, h]

@[simp] theorem toSample_wire :
    (toSample s).wire =
      { s.wire with trace := s.wire.trace ++ if s.pin.dioOE then turns s.cfg s.ses.half else [] } := by
  cases h : s.pin.dioOE with
  | true => simp [toSample_driving s h, turns]
  | false => simp [toSample_sampling s h]

end

/-! The fields that DPSE drives. -/

/-- Settles O44: the line is brought into the drive direction, and the header's last bit is Park (R97). -/
theorem swdReqDrivesHeader : Obligations.SwdReqDrivesHeader := by
  unfold Obligations.SwdReqDrivesHeader
  intro s sel hr
  have hoe := swdReady_clkOE hr
  have hpark : (bitsLsbFirst (header sel) 8).getLast? = some true := by
    revert sel
    decide
  refine ⟨dropShift (swdRequest sel (toDrive (s.setWork { s.work with sel := sel }))), ?_, ?_⟩
  · simp [exec, execSwdReq, hr]
  · simp [toDrive_setSel, swdRequest, drives, hoe, hpark]

/-- Settles O47: the line is brought into the drive direction; the last of the 33 levels is the computed parity, after
which the line goes low (R157). -/
theorem swdDataDrivesWrite : Obligations.SwdDataDrivesWrite := by
  unfold Obligations.SwdDataDrivesWrite
  intro s v par hr hwrite
  have hoe := swdReady_clkOE hr
  refine ⟨dropShift (swdWriteData v (toDrive s)), ?_, ?_⟩
  · simp [exec, execSwdData, hr, hwrite]
  · simp [swdWriteData, drives, drivenLow, hoe, bits_dataWord]

/-! The fields that DPSE samples. -/

section

variable {n : Nat} (w : BitVec n) (s : State)

/-- The samples are the word's bits, put before the target's own answers (log entry 8). -/
theorem targetBits_feed : targetBits n (feed (bitsLsbFirst w n) s) = bitsLsbFirst w n :=
  targetBits_prefix (rest := s.wire.answers) (by simp) (by simp)

/-- Sampling the word uses up its own bits: the target's answers are as they were (log entry 8). -/
theorem readBits_feed_wire :
    (readBits n (feed (bitsLsbFirst w n) s)).wire =
      { s.wire with
        trace := s.wire.trace ++ samples s.ses.half (bitsLsbFirst w n)
        drawn := s.wire.drawn + n } := by
  have hdrop : (bitsLsbFirst w n ++ s.wire.answers).drop n = s.wire.answers := List.drop_left' (by simp)
  simp [targetBits_feed, hdrop, samples]

/-- The bits sampled assemble to the word (R65). -/
theorem readBits_feed_shift : (readBits n (feed (bitsLsbFirst w n) s)).work.shift = w.setWidth 35 := by
  apply BitVec.eq_of_getLsbD_eq
  intro i hi
  rw [readBits_work, targetBits_feed, BitVec.getLsbD_ofNat, natOfBits_testBit, BitVec.getLsbD_setWidth]
  by_cases hn : i < n
  · simp [bitsLsbFirst, hn]
  · simp [bitsLsbFirst, hn, BitVec.getLsbD_of_ge w i (Nat.not_lt.1 hn)]

end

/-- Settles O45: the line is brought into the sample direction; the three samples are the word's bits, and assembled
they are the word. -/
theorem swdAckSamplesAck : Obligations.SwdAckSamplesAck := by
  unfold Obligations.SwdAckSamplesAck
  intro s ack hr
  have hoe := swdReady_clkOE hr
  refine ⟨dropShift (swdAcknowledge (feed (bitsLsbFirst ack 3) (toSample s))), ?_, ?_⟩
  · simp [exec, execSwdAck, hr]
  · simp [swdAcknowledge, hoe, readBits_feed_wire, readBits_feed_shift, -readBits_work, -readBits_wire]

/-- The parity check as a status byte (R149, 60 R250). -/
theorem readStatus_code (v : Word) (par : Bool) :
    (readStatus v par).code = if par = parity32 v then 0x00#8 else 0x03#8 := by
  by_cases hpar : par = parity32 v <;> simp [readStatus, hpar, Status.code]

/-- Settles O46: as for the acknowledgement, with 32 bits of value and the parity bit, which is checked (R149). -/
theorem swdDataSamplesRead : Obligations.SwdDataSamplesRead := by
  unfold Obligations.SwdDataSamplesRead
  intro s v par hr hread
  have hoe := swdReady_clkOE hr
  have hdata : ((dataWord v par).setWidth 35).setWidth 32 = v := by
    rw [BitVec.setWidth_setWidth_of_le _ (by decide), dataWord_data]
  have hpar : (dataWord v par)[32] = par := dataWord_par v par
  rw [← bits_dataWord]
  refine ⟨dropShift (swdReadData (feed (bitsLsbFirst (dataWord v par) 33) (toSample s))), ?_, ?_⟩
  · simp [exec, execSwdData, hr, hread]
  · simp [swdReadData, hoe, readBits_feed_shift, readBits_feed_wire, hdata, hpar, readStatus_code, -readBits_work,
      -readBits_wire]

/-! The scan fields. -/

/-- Settles O48: the incoming levels are the target's next answers, and nothing keeps them. -/
theorem scanIrSelectsChain : Obligations.ScanIrSelectsChain := by
  unfold Obligations.ScanIrSelectsChain
  intro s port ins rest hr hlen hans
  obtain ⟨hoe, hd⟩ := scanReady_driven hr
  have hins := targetBits_prefix hans hlen
  have hrest : s.wire.answers.drop s.cfg.scanIrLen = rest := by rw [hans, ← hlen, List.drop_left]
  refine ⟨dropShift (scanSelect port s), ?_, ?_⟩
  · simp [exec, execScanIr, hr]
  · simp [scanSelect, scans, hoe, hd, hins, hrest]

/-- Settles O49: the word's bits go out in order, and the value of a read is what comes in behind three bits. -/
theorem scanDrShiftsWord : Obligations.ScanDrShiftsWord := by
  unfold Obligations.ScanDrShiftsWord
  intro s rnw a2 a3 data v low rest hr hlow hans
  obtain ⟨hoe, hd⟩ := scanReady_driven hr
  have hins : targetBits 35 s = low ++ bitsLsbFirst v 32 := targetBits_prefix hans (by simp [hlow])
  have hrest : s.wire.answers.drop 35 = rest := by
    rw [hans, List.drop_left' (by simp [hlow])]
  have hvalue := scan_value v hlow
  refine ⟨dropShift (scanData (scanWordOf rnw a2 a3 data) rnw s), ?_, ?_⟩
  · simp [exec, execScanDr, hr]
  · cases rnw <;> simp [scanData, scans, drivenLow, hoe, hd, hins, hrest, hvalue, bits_scanWordOf]

end Sys2Proof.Machine
end

section
/-!
SUPPORT. What a command puts in bytes 0 and 1 of its response, and that it has changed nothing where byte 1 says it was
refused (30_encoding.md R85, R88, R90; 60_exceptions.md R250, R259): one lemma per meaning.
-/

namespace Sys2Proof.Machine

open Sys2Proof

/-- The two statuses that refuse a command (60 R260). -/
def IsRefusal (st : Status) : Prop :=
  st = .badCommand ∨ st = .badState

/-- The response's byte 1 is the code of a refusal exactly for the two statuses: no two statuses share a code (R250). -/
theorem refusedResponse_iff (op : Byte) (st : Status) (tail : List Byte) :
    refusedResponse (op :: st.code :: tail) = true ↔ IsRefusal st := by
  unfold refusedResponse IsRefusal
  rw [List.getD_cons_succ, List.getD_cons_zero]
  cases st <;> decide

/-- `RunOp` never refuses (43 R211). -/
theorem not_isRefusal_of_runOpStatus {c : Config} {d : Disc} {isRead : Bool} {st : Status}
    (h : runOpStatus c d isRead st) : ¬ IsRefusal st := by
  rintro (rfl | rfl)
  · exact h
  · exact h

/-- The result, where it is a next state, has a response of opcode byte `op` and a status; where that refuses the
command, nothing has changed since `s`. -/
def Reports (op : Byte) (s : State) (r : Result) : Prop :=
  ∀ t, r = .next t → ∃ st tail, t.rspBuf = op :: Status.code st :: tail ∧ (IsRefusal st → Quiet s t)

section

variable {op : Byte} {s : State}

theorem reports_raise (st : Status) : Reports op s (raise st (setOp op s)) := by
  intro t h
  refine ⟨st, [], ?_, fun _ => quiet_of_raise h⟩
  obtain rfl := Host.Outcome.next.inj h
  simp

theorem reports_fault (f : Fault) : Reports op s (.fault f) := by
  intro t h
  cases h

theorem reports_respond {st : Status} (hst : ¬ IsRefusal st) {bytes : Packet} {tail : List Byte} {u : State}
    (hbytes : bytes = op :: st.code :: tail) : Reports op s (.next (respond bytes u)) := by
  intro t h
  obtain rfl := Host.Outcome.next.inj h
  exact ⟨st, tail, by simpa using hbytes, fun hr => absurd hr hst⟩

theorem reports_ok {bytes : Packet} {tail : List Byte} {u : State} (hbytes : bytes = op :: Status.ok.code :: tail) :
    Reports op s (.next (respond bytes u)) :=
  reports_respond (by simp [IsRefusal]) hbytes

theorem Reports.ite {p : Prop} [Decidable p] {r x : Result} (hr : Reports op s r) (hx : Reports op s x) :
    Reports op s (if p then r else x) := by
  split_ifs
  · exact hr
  · exact hx

end

/-! The session commands. -/

section

variable {s : State}

theorem reports_execInfo : Reports opInfo s (execInfo s) := reports_ok rfl

theorem reports_execConnect (disc flags : Byte) : Reports opConnect s (execConnect disc flags s) :=
  have refused (st : Status) := reports_raise (op := opConnect) (s := s) st
  .ite (refused .badCommand) (.ite (refused .badCommand) (.ite (refused .badCommand)
    (.ite (refused .badState) (reports_ok rfl))))

theorem reports_execClock (freq : Word) : Reports opClock s (execClock freq s) :=
  .ite (reports_raise .badCommand) (reports_ok rfl)

theorem reports_execReset (level : Byte) (duration : Word) : Reports opReset s (execReset level duration s) :=
  .ite (reports_raise .badCommand) (reports_ok rfl)

theorem reports_execAbort : Reports opAbort s (execAbort s) := reports_ok rfl

/-! The transfer commands. -/

theorem resultBytes_eq_code_cons (sel : Sel) (st : Status) (v : Word) :
    ∃ tail, resultBytes sel st v = st.code :: tail := by
  unfold resultBytes
  split
  · exact ⟨le32 v, rfl⟩
  · exact ⟨[], rfl⟩

/-- XFER reports its refusal, or the status of its Operation (R214, R215). -/
theorem reports_xfer (sel : Sel) (value : Word) : Reports opXfer s (xfer sel value s) := by
  unfold xfer
  extract_lets s0 r
  split_ifs with hconn hready
  · exact reports_raise .badState
  · exact reports_fault _
  · obtain ⟨st, evs, k, ht, hst, -⟩ := runOp_spec (sel := sel) (wdata := value) (eq_true_of_ne_false hready)
    obtain ⟨tail, htail⟩ := resultBytes_eq_code_cons sel r.1 r.2.work.rdata
    have hstatus : r.1 = st := ht.status
    exact reports_respond (hstatus ▸ not_isRefusal_of_runOpStatus hst) (congrArg (opXfer :: ·) htail)

/-- QPUSH reports its refusal, QUEUE_FULL or OK (R217, R218). -/
theorem reports_qpush (sel : Sel) (wdata : Option Word) : Reports opQpush s (qpush sel wdata s) := by
  unfold qpush
  extract_lets s0
  split_ifs
  · exact reports_raise .badState
  · split
    next => exact reports_respond (st := .queueFull) (by simp [IsRefusal]) rfl
    next => exact reports_ok rfl

/-- W.BSTATUS holds the code of a status that is no refusal. -/
def BatchStatusHeld (s : State) : Prop :=
  ∃ st : Status, s.work.bstatus = st.code ∧ ¬ IsRefusal st

/-- A round leaves W.BSTATUS, or writes the status of the Operation it ran (R224). -/
theorem batchStatusHeld_drainOne (hr : codecReady s = true) (h : BatchStatusHeld s) : BatchStatusHeld (drainOne s) := by
  cases hs : s.work.stopped with
  | true =>
    rw [drainOne_stopped hs]
    exact h
  | false =>
    rw [drainOne_running hs]
    obtain ⟨st, v, evs, hran, hst, -⟩ := runEntry_spec (e := oldest s) (s := dropOldest s) hr
    unfold BatchStatusHeld
    rw [hran.bstatus]
    split
    · exact ⟨st, rfl, not_isRefusal_of_runOpStatus hst⟩
    · exact h

theorem batchStatusHeld_drain (n : Nat) (s : State) (hr : n ≠ 0 → codecReady s = true) (h : BatchStatusHeld s) :
    BatchStatusHeld (drain n s) := by
  induction n generalizing s with
  | zero => exact h
  | succ n ih =>
    have hready := hr (Nat.succ_ne_zero n)
    exact ih (drainOne s) (fun _ => (drainOne_operated hready).2) (batchStatusHeld_drainOne hready h)

/-- QEXEC reports its refusal, or W.BSTATUS (R221, R226). -/
theorem reports_execQexec : Reports opQexec s (execQexec s) := by
  unfold execQexec
  extract_lets s0 s1
  split_ifs with hidle hready
  · exact reports_raise .badState
  · exact reports_fault _
  · have hr : s0.queue.count ≠ 0 → codecReady (startBatch s0) = true := fun hc =>
      eq_true_of_ne_false fun hn => hready ⟨hc, hn⟩
    obtain ⟨st, hcode, hst⟩ := batchStatusHeld_drain s0.queue.count (startBatch s0) hr ⟨.ok, rfl, by simp [IsRefusal]⟩
    have hbstatus : s1.work.bstatus = st.code := hcode
    refine reports_respond hst (tail := [s1.work.total, s1.work.executed, s1.work.failidx] ++ s1.rspBuf) ?_
    simp [batchHeader, hbstatus]

end

/-- Every command reports its own opcode byte (R85). -/
theorem reports_exec {i : Instr} {s : State} (hi : i.isCommand = true) :
    Reports ((encodePacket i).headD 0x00#8) s (exec i s) := by
  cases i with
  | info => exact reports_execInfo
  | connect disc flags => exact reports_execConnect disc flags
  | clock freq => exact reports_execClock freq
  | reset level duration => exact reports_execReset level duration
  | xferR loc => exact reports_xfer _ _
  | xferW loc value => exact reports_xfer _ _
  | qpushR loc => exact reports_qpush _ _
  | qpushW loc value => exact reports_qpush _ _
  | qexec => exact reports_execQexec
  | abort => exact reports_execAbort
  | swdReq sel => cases hi
  | swdAck ack => cases hi
  | swdData data par => cases hi
  | scanIr port => cases hi
  | scanDr rnw a2 a3 data => cases hi

/-- Settles O58: byte 1 of the response is the status the command reports, and one that reports a refusal was quiet. -/
theorem refusedCommandDoesNothing : Obligations.RefusedCommandDoesNothing := by
  unfold Obligations.RefusedCommandDoesNothing
  intro i s t hi h hrefused
  obtain ⟨st, tail, hrsp, hquiet⟩ := reports_exec hi t h
  rw [hrsp, refusedResponse_iff] at hrefused
  exact hquiet hrefused

/-! Packets. -/

/-- A malformed packet is refused under its own opcode byte (R84, R89, R90). -/
theorem runPacket_error {p : Packet} {e : DecodeError} {s : State} (h : decodePacket p = .error e) :
    runPacket p s = raise .badCommand (setOp (p.headD 0x00#8) s) := by
  simp [runPacket, h, malformed, decodePacket_error h]

/-- Every packet, well-formed or not, reports its opcode byte (R85). -/
theorem reports_runPacket (p : Packet) (s : State) : Reports (p.headD 0x00#8) s (runPacket p s) := by
  cases h : decodePacket p with
  | ok i =>
    rw [runPacket_ok h, ← encodePacket_of_decodePacket h]
    exact reports_exec (decodePacket_isCommand h)
  | error e =>
    rw [runPacket_error h]
    exact reports_raise .badCommand

/-- No packet changes the configuration or the host channel once it is accepted (10 R46). -/
theorem runPacket_cfg_host {p : Packet} {s t : State} (h : runPacket p s = .next t) :
    t.cfg = s.cfg ∧ t.host = s.host := by
  cases hdec : decodePacket p with
  | ok i =>
    rw [runPacket_ok hdec] at h
    obtain ⟨-, -, -, -, -, -, -, -, -, -, -, -, hcfg, hhost⟩ := onlyTheseCommandsWrite i s t h
    exact ⟨hcfg, hhost⟩
  | error e =>
    rw [runPacket_error hdec] at h
    have hq := quiet_of_raise h
    exact ⟨hq.cfg, hq.host⟩

/-- Settles O15: the step runs the packet, which is refused as BAD_COMMAND. -/
theorem stepAnswersMalformed : Obligations.StepAnswersMalformed := by
  unfold Obligations.StepAnswersMalformed
  intro s p rest e hrst hcut hfield hrsp hcmd hdec
  refine ⟨errorResponse .badCommand (setOp (p.headD 0x00#8) (accept p rest s)), ?_, ?_⟩
  · rw [step_packet hrst hcut hfield hrsp hcmd, runPacket_error hdec]
    rfl
  · simp [Status.code]

/-- Settles O20: the packet's report gives bytes 0 and 1, and the invariant after the step that the response fits. -/
theorem everyPacketIsAnswered : Obligations.EveryPacketIsAnswered := by
  unfold Obligations.EveryPacketIsAnswered
  intro s p rest hinv hrst hcut hrsp hcmd
  obtain ⟨t, hstep, ht⟩ := step_inv hinv
  have hrun : runPacket p (accept p rest s) = .next t :=
    (step_packet hrst hcut hinv.field_none hrsp hcmd).symm.trans hstep
  obtain ⟨st, tail, hreport, -⟩ := reports_runPacket p (accept p rest s) t hrun
  obtain ⟨hcfg, hhost⟩ := runPacket_cfg_host hrun
  have hle := ht.rsp_le
  rw [hcfg] at hle
  exact ⟨t, st, hstep, hhost, by simp [hreport], hle, by simp [hreport], by simp [hreport]⟩

end Sys2Proof.Machine
end

section
/-!
SUPPORT. What a step puts on the wire: pieces that all have the half-period set and that take the data line from rest to
rest (40_serial_driver.md R115, R127). The transactions are such pieces, and every command and every step adds one.
-/

namespace Sys2Proof.Machine

open Sys2Proof

/-- A stretch of the trace whose cycles all have half-period `h` (R115), and over which the line, at rest before it,
keeps the turnaround rule and is at rest again (R127). -/
structure Orderly (c : Config) (h : Nat) (evs : List WireEvent) : Prop where
  half : ∀ e ∈ evs, ∀ k, eventHalf e = some k → k = h
  line : ∀ p, atRest c.trn p = true →
    ∃ q, lineRun c.trn p (evs.filterMap lineUse) = some q ∧ atRest c.trn q = true

theorem lineRun_uses_append (trn : Nat) (p : LineAt) (a b : List WireEvent) :
    lineRun trn p ((a ++ b).filterMap lineUse) =
      (lineRun trn p (a.filterMap lineUse)).bind fun q => lineRun trn q (b.filterMap lineUse) := by
  rw [List.filterMap_append, lineRun_append]

theorem Orderly.append {c : Config} {h : Nat} {a b : List WireEvent} (ha : Orderly c h a) (hb : Orderly c h b) :
    Orderly c h (a ++ b) where
  half := List.forall_mem_append.2 ⟨ha.half, hb.half⟩
  line p hp := by
    obtain ⟨q, hrun, hq⟩ := ha.line p hp
    obtain ⟨r, hrun2, hr⟩ := hb.line q hq
    exact ⟨r, by rw [lineRun_uses_append, hrun]; exact hrun2, hr⟩

/-- Events that are no clock cycle: RL and HOLD (R113). -/
theorem orderly_of_idle {c : Config} {h : Nat} {evs : List WireEvent} (hhalf : ∀ e ∈ evs, eventHalf e = none)
    (huse : evs.filterMap lineUse = []) : Orderly c h evs where
  half e he k hk := by rw [hhalf e he] at hk; cases hk
  line p hp := ⟨p, by rw [huse]; rfl, hp⟩

theorem orderly_nil (c : Config) (h : Nat) : Orderly c h [] := orderly_of_idle (by simp) rfl

theorem Orderly.flatten {c : Config} {h : Nat} {evs : List (List WireEvent)} (hevs : ∀ ev ∈ evs, Orderly c h ev) :
    Orderly c h evs.flatten := by
  induction evs with
  | nil => exact orderly_nil c h
  | cons ev evs ih =>
    obtain ⟨hev, hrest⟩ := List.forall_mem_cons.1 hevs
    exact hev.append (ih hrest)

/-! The transactions. -/

/-- Driven cycles of one half-period, any number of them (R127). -/
theorem orderly_of_driven {c : Config} {h n : Nat} {evs : List WireEvent} (hhalf : ∀ e ∈ evs, eventHalf e = some h)
    (huse : evs.filterMap lineUse = List.replicate n .driven) : Orderly c h evs where
  half e he k hk := Option.some.inj (hk.symm.trans (hhalf e he))
  line p hp := by
    rw [huse]
    rcases Nat.eq_zero_or_pos n with rfl | hn
    · exact ⟨p, rfl, hp⟩
    · exact ⟨.driving, lineRun_driven hp hn, rfl⟩

theorem orderly_drives (c : Config) (h : Nat) (levels : List Bool) : Orderly c h (drives h levels) :=
  orderly_of_driven half_drives (uses_drives h levels)

theorem orderly_scans (c : Config) (h : Nat) {outs ins : List Bool} (hl : outs.length = ins.length) :
    Orderly c h (scans h outs ins) :=
  orderly_of_driven half_scans (uses_scans h outs ins hl)

/-- A scan-style transaction drives the line throughout (R161, R163). -/
theorem orderly_of_scanOnWire {c : Config} {h : Nat} {sel : Sel} {ir : IrState} {wdata v : Word}
    {evs : List WireEvent} (hw : scanOnWire c h ir sel wdata v evs) : Orderly c h evs := by
  obtain ⟨lead, low, w, hlead, hlow, rfl, -⟩ := hw
  refine Orderly.append ?_ (orderly_scans c h (by simp [hlow]))
  split
  · exact orderly_nil c h
  · exact orderly_scans c h (by simp [hlead])

section

variable {c : Config} (ht : 0 < c.trn) (h : Nat) (sel : Sel)

include ht

/-- Header, turnaround, samples, turnaround: driven, sampled, and given back (R127, R142, R153). -/
theorem orderly_refusedTrace {levels : List Bool} (hl : 0 < levels.length) :
    Orderly c h (refusedTrace c h sel levels) where
  half := by
    have hall : ∀ e ∈ refusedTrace c h sel levels, eventHalf e = some h := by
      simp only [refusedTrace, openingTrace, List.forall_mem_append]
      exact ⟨⟨⟨half_drives, half_turns⟩, half_samples⟩, half_turns⟩
    intro e he k hk
    exact Option.some.inj (hk.symm.trans (hall e he))
  line p hp := by
    have hdrive : lineRun c.trn p ((drives h (bitsLsbFirst (header sel) 8)).filterMap lineUse) = some .driving := by
      rw [uses_drives]
      exact lineRun_driven hp (by simp)
    have hsample : lineRun c.trn .driving ((turns c h ++ samples h levels).filterMap lineUse) = some .sampling := by
      rw [List.filterMap_append, uses_turns, uses_samples]
      exact lineRun_turn_sampled ht hl
    have hback : lineRun c.trn .sampling ((turns c h).filterMap lineUse) = some (.toDrive c.trn) := by
      rw [uses_turns]
      exact lineRun_turn_back ht
    refine ⟨.toDrive c.trn, ?_, by simp [atRest]⟩
    rw [refusedTrace, openingTrace, List.append_assoc (drives _ _), lineRun_uses_append, lineRun_uses_append, hdrive,
      Option.bind_some, hsample]
    exact hback

/-- An OK read has its data samples right behind those of the acknowledgement (R144). -/
theorem orderly_readTrace (data : List Bool) (par : Bool) : Orderly c h (readTrace c h sel data par) := by
  have e : readTrace c h sel data par = refusedTrace c h sel (ackOk ++ (data ++ [par])) := by
    simp [readTrace, refusedTrace, openingTrace, samples]
  rw [e]
  exact orderly_refusedTrace ht h sel (by simp)

/-- An OK write drives its data once the line has been given back (R145). -/
theorem orderly_writeTrace (v : Word) : Orderly c h (writeTrace c h sel v) :=
  (orderly_refusedTrace ht h sel (levels := ackOk) (by decide)).append (orderly_drives c h _)

theorem orderly_waitTrace (n : Nat) : Orderly c h (waitTrace c h sel n) :=
  .flatten fun ev hev => by
    rw [List.eq_of_mem_replicate hev]
    exact orderly_refusedTrace ht h sel (by decide)

variable {h sel}

/-- The last transaction of a SWD-style Operation, by its final status (R144 to R149). -/
theorem orderly_of_lastOnWire {wdata v : Word} {evs : List WireEvent} {st : Status}
    (hw : lastOnWire c h sel wdata v evs st) : Orderly c h evs := by
  cases st with
  | ok =>
    obtain rfl := hw
    split
    · exact orderly_readTrace ht h sel _ _
    · exact orderly_writeTrace ht h sel wdata
  | wait => obtain rfl := hw; exact orderly_refusedTrace ht h sel (by decide)
  | fault => obtain rfl := hw; exact orderly_refusedTrace ht h sel (by decide)
  | parityErr => obtain ⟨-, w, rfl⟩ := hw; exact orderly_readTrace ht h sel _ _
  | timeout => obtain rfl := hw; exact orderly_refusedTrace ht h sel (by decide)
  | noAck => obtain ⟨ack, -, rfl⟩ := hw; exact orderly_refusedTrace ht h sel (by simp)
  | queueFull => cases hw
  | notExecuted => cases hw
  | badCommand => cases hw
  | badState => cases hw

/-- The whole wire activity of an Operation, in either discipline (R165, R212). -/
theorem orderly_of_opOnWire {ir : IrState} {wdata v : Word} {retries : Nat} {st : Status} {evs : List WireEvent}
    {d : Disc} (hw : opOnWire c h ir sel wdata retries st v evs d) : Orderly c h evs := by
  cases d with
  | none => cases hw
  | swd =>
    obtain ⟨n, last, -, -, rfl, hlast⟩ := hw
    exact (orderly_waitTrace ht h sel n).append (orderly_of_lastOnWire ht hlast)
  | scan =>
    obtain ⟨-, hscan⟩ := hw
    exact orderly_of_scanOnWire hscan

end

/-! The commands and the step. -/

/-- From `s` to `t` the trace grows by an orderly stretch at the half-period S.HALF has in `s`. -/
def AddsOrderly (s t : State) : Prop :=
  ∃ evs, t.wire.trace = s.wire.trace ++ evs ∧ Orderly s.cfg s.ses.half evs

section

variable {s t : State}

theorem addsOrderly_of_trace_eq (h : t.wire.trace = s.wire.trace) : AddsOrderly s t :=
  ⟨[], by rw [h, List.append_nil], orderly_nil _ _⟩

/-- RESET puts RL and HOLD events on the wire, no clock cycle (R189). -/
theorem execReset_addsOrderly {level : Byte} {duration : Word} (h : execReset level duration s = .next t) :
    AddsOrderly s t := by
  obtain hq | rfl | rfl := execReset_next h
  · exact addsOrderly_of_trace_eq (congrArg Wire.trace hq.wire)
  · exact ⟨[.resetLine (level.getLsbD 0)], by simp, orderly_of_idle (by simp [eventHalf]) rfl⟩
  · exact ⟨[.resetLine (level.getLsbD 0), .hold (resetTicks s.cfg duration), .resetLine (!level.getLsbD 0)],
      by simp [holdThenFlip], orderly_of_idle (by simp [eventHalf]) rfl⟩

/-- XFER is refused, or puts the wire activity of its Operation on the wire (R214). -/
theorem xfer_addsOrderly {sel : Sel} {value : Word} (ht : 0 < s.cfg.trn) (h : xfer sel value s = .next t) :
    AddsOrderly s t := by
  unfold xfer at h
  extract_lets s0 r at h
  split_ifs at h with hconn hready
  · exact addsOrderly_of_trace_eq (congrArg Wire.trace (quiet_of_raise h).wire)
  · obtain rfl := Host.Outcome.next.inj h
    obtain ⟨st, evs, k, hrun, -, hw, -⟩ := runOp_spec (sel := sel) (wdata := value) (eq_true_of_ne_false hready)
    have htrace : r.2.wire.trace = s.wire.trace ++ evs := congrArg Wire.trace hrun.wire
    exact ⟨evs, by simpa using htrace, orderly_of_opOnWire ht hw⟩

/-- QEXEC is refused, or puts the wire activity of its Operations on the wire, one after the other (R222). -/
theorem execQexec_addsOrderly (hs : Settled s) (h : execQexec s = .next t) : AddsOrderly s t := by
  unfold execQexec at h
  extract_lets s0 s1 at h
  split_ifs at h with hidle hready
  · exact addsOrderly_of_trace_eq (congrArg Wire.trace (quiet_of_raise h).wire)
  · obtain rfl := Host.Outcome.next.inj h
    have hr : s0.queue.count = 0 ∨ codecReady (startBatch s0) = true :=
      or_iff_not_imp_left.2 fun hc => eq_true_of_ne_false fun hn => hready ⟨hc, hn⟩
    obtain ⟨rs, evs, hu⟩ := drain_spec s0.queue.count (startBatch s0) rfl hs.queueOk hr nofun
    have htrace : s1.wire.trace = s.wire.trace ++ evs.flatten := hu.trace
    refine ⟨evs.flatten, by simpa using htrace, .flatten fun ev hev => ?_⟩
    obtain rfl | ⟨ir, sel, wdata, st, v, hw⟩ := hu.shape ev hev
    · exact orderly_nil _ _
    · exact orderly_of_opOnWire hs.legal.trn_pos hw

/-- Every command adds an orderly stretch; the ones not named here add nothing (10 R46). -/
theorem exec_addsOrderly {i : Instr} (hi : i.isCommand = true) (hs : Settled s) (h : exec i s = .next t) :
    AddsOrderly s t := by
  by_cases hwire : t.wire = s.wire
  · exact addsOrderly_of_trace_eq (congrArg Wire.trace hwire)
  obtain ⟨-, -, -, -, -, -, -, -, -, -, -, hwrites, -⟩ := onlyTheseCommandsWrite i s t h
  obtain ⟨level, duration, rfl⟩ | (⟨loc, rfl⟩ | ⟨loc, value, rfl⟩) | rfl | hfield := hwrites hwire
  · exact execReset_addsOrderly h
  · exact xfer_addsOrderly hs.legal.trn_pos h
  · exact xfer_addsOrderly hs.legal.trn_pos h
  · exact execQexec_addsOrderly hs h
  · rw [hi] at hfield
    cases hfield

theorem runPacket_addsOrderly {p : Packet} (hs : Settled s) (h : runPacket p s = .next t) : AddsOrderly s t := by
  cases hdec : decodePacket p with
  | ok i =>
    rw [runPacket_ok hdec] at h
    exact exec_addsOrderly (decodePacket_isCommand hdec) hs h
  | error e =>
    rw [runPacket_error hdec] at h
    exact addsOrderly_of_trace_eq (congrArg Wire.trace (quiet_of_raise h).wire)

/-- A step without a field at the codec and without a reset inside a command is a hardware reset, a wait, an offer of
the response, or a packet run (R9). -/
theorem step_next (hfield : s.wire.field = none) (hcut : s.host.rstCut = none) (h : step s = .next t) :
    t = hwReset s ∨ t = s ∨ t = offerResponse s ∨ ∃ p rest, runPacket p (accept p rest s) = .next t := by
  unfold step at h
  rw [hfield] at h
  split at h
  · exact .inl (Host.Outcome.next.inj h).symm
  dsimp only at h
  split at h
  · split at h
    next => exact .inr (.inl (Host.Outcome.next.inj h).symm)
    next p rest _ => exact .inr (.inr (.inr ⟨p, rest, by simpa [withResetCut, hcut] using h⟩))
  · exact .inr (.inr (.inl (Host.Outcome.next.inj h).symm))

/-- Every step without a reset inside it keeps the configuration and adds an orderly stretch (R115, R127). -/
theorem step_addsOrderly (hinv : Inv s) (hcut : s.host.rstCut = none) (h : step s = .next t) :
    t.cfg = s.cfg ∧ AddsOrderly s t := by
  obtain rfl | rfl | rfl | ⟨p, rest, hrun⟩ := step_next hinv.field_none hcut h
  · exact ⟨by simp, addsOrderly_of_trace_eq (by simp)⟩
  · exact ⟨rfl, addsOrderly_of_trace_eq rfl⟩
  · unfold offerResponse
    split
    · exact ⟨by simp, addsOrderly_of_trace_eq (by simp)⟩
    · exact ⟨rfl, addsOrderly_of_trace_eq rfl⟩
  · obtain ⟨hs, -⟩ := inv_iff_settled.1 hinv
    obtain ⟨hcfg, -⟩ := runPacket_cfg_host hrun
    obtain ⟨evs, htrace, hevs⟩ := runPacket_addsOrderly (hs.accept p rest) hrun
    exact ⟨by simpa using hcfg, evs, by simpa using htrace, by simpa using hevs⟩

end

end Sys2Proof.Machine
end

section
/-!
The statements of the serial driver (40_serial_driver.md R112, R115, R120, R124 to R127).
-/

namespace Sys2Proof.Machine

open Sys2Proof

/-- Settles O55: the stretch that the step adds starts from rest, where the trace before it left the line. -/
theorem stepKeepsTurnaroundRule : Obligations.StepKeepsTurnaroundRule := by
  unfold Obligations.StepKeepsTurnaroundRule
  intro s t hinv hcut hok h
  obtain ⟨place, hrun, hrest⟩ := hok
  obtain ⟨hcfg, evs, htrace, hevs⟩ := step_addsOrderly hinv hcut h
  obtain ⟨place2, hrun2, hrest2⟩ := hevs.line place hrest
  rw [hcfg, htrace]
  exact ⟨place2, by rw [lineRun_uses_append, hrun]; exact hrun2, hrest2⟩

/-- Settles O54: the stretch that the step adds is at S.HALF, which the invariant keeps at or above HALF_MIN. -/
theorem everyCycleAtTheSetRate : Obligations.EveryCycleAtTheSetRate := by
  unfold Obligations.EveryCycleAtTheSetRate
  intro s t hinv hcut h
  obtain ⟨-, evs, htrace, hevs⟩ := step_addsOrderly hinv hcut h
  refine ⟨evs, htrace, fun e he k hk => ?_⟩
  obtain rfl := hevs.half e he k hk
  exact ⟨rfl, hinv.half_ge⟩

/-! One cycle. -/

section

variable {h k : Nat} {tick : Tick}

/-- Each tick of a cycle has the level of its phase, and the sample point is tick h - 1 (R112, R120). -/
theorem clockPulse_clk_sampled {dio : Option Bool} {samples : Bool} (hh : 1 ≤ h)
    (hk : (clockPulse dio samples h)[k]? = some tick) :
    (tick.clk = true ↔ h ≤ k) ∧ (tick.sampled = true ↔ samples = true ∧ k = h - 1) := by
  obtain ⟨-, hclk, hsampled, -⟩ := clockPulse_tick dio samples h hk
  have hpoint : k + 1 = h ↔ k = h - 1 := by omega
  exact ⟨by simp [hclk], by simp [hsampled, hpoint]⟩

theorem clockPulse_dio {dio : Option Bool} {samples : Bool} (hk : (clockPulse dio samples h)[k]? = some tick) :
    tick.dio = dio := by
  obtain ⟨-, -, -, hdio⟩ := clockPulse_tick dio samples h hk
  exact hdio

/-- Throughout its cycle a D or X event drives its level, and an S or T event drives nothing (R113, R124). -/
theorem timeline_dio {e : WireEvent} (he : eventHalf e = some h) (hk : (timeline e)[k]? = some tick) :
    (∃ b, e = .drive b h ∧ tick.dio = some b) ∨ (∃ o i, e = .scan o i h ∧ tick.dio = some o) ∨
      (tick.dio = none ∧ ((∃ b, e = .sample b h) ∨ e = .turn h)) := by
  cases e with
  | drive b _ => cases he; exact .inl ⟨b, rfl, clockPulse_dio hk⟩
  | sample b _ => cases he; exact .inr (.inr ⟨clockPulse_dio hk, .inl ⟨b, rfl⟩⟩)
  | turn _ => cases he; exact .inr (.inr ⟨clockPulse_dio hk, .inr rfl⟩)
  | scan o i _ => cases he; exact .inr (.inl ⟨o, i, rfl, clockPulse_dio hk⟩)
  | resetLine _ => cases he
  | hold _ => cases he

end

/-- Settles O52: an event of half-period h is one clock pulse of h, with the event's level on the data line. -/
theorem cycleTimeline : Obligations.CycleTimeline := by
  unfold Obligations.CycleTimeline
  intro e h hh he
  obtain ⟨hticks, dio, hpulse⟩ := timeline_eq he
  refine ⟨by rw [hpulse, clockPulse_length], hticks, fun k tick hk => ?_⟩
  have hdio := timeline_dio he hk
  rw [hpulse] at hk
  obtain ⟨hclk, hsampled⟩ := clockPulse_clk_sampled hh hk
  exact ⟨hclk, hsampled, hdio⟩

/-! The driver's precondition (R126). -/

theorem xfer_not_ready {sel : Sel} {value : Word} {s : State} (hready : codecReady s = false)
    (hconn : s.ses.dstate = .connected) : xfer sel value s = .fault .codecPrecondition := by
  have hready0 : codecReady (setOp opXfer s) = false := hready
  simp [xfer, hconn, hready0]

theorem execQexec_not_ready {s : State} (hready : codecReady s = false) (hidle : s.ses.dstate ≠ .idle)
    (hcount : s.queue.count ≠ 0) : execQexec s = .fault .codecPrecondition := by
  have hready0 : codecReady (setOp opQexec s) = false := hready
  simp [execQexec, hidle, hcount, hready0]

/-- Settles O43: both commands test the precondition before they run anything. -/
theorem transferStopsWithoutDrivenLines : Obligations.TransferStopsWithoutDrivenLines := by
  unfold Obligations.TransferStopsWithoutDrivenLines
  intro s hready
  exact ⟨fun hconn loc v => ⟨xfer_not_ready hready hconn, xfer_not_ready hready hconn⟩,
    fun hidle hcount => execQexec_not_ready hready hidle hcount⟩

/-- Settles O51: each field tests its discipline and the lines before it runs. -/
theorem wireFieldOutsideDisciplineStops : Obligations.WireFieldOutsideDisciplineStops := by
  unfold Obligations.WireFieldOutsideDisciplineStops
  intro s
  exact ⟨fun hready _ _ _ _ => ⟨if_pos hready, if_pos hready, if_pos hready⟩,
    fun hready _ _ _ _ _ => ⟨if_pos hready, if_pos hready⟩⟩

end Sys2Proof.Machine
end

section
/-!
SUPPORT. What one Operation does on listed answers of the target: a transaction by the levels that answer it, the retry
loop over it, and XFER around the loop (41_transaction_codec.md R142 to R149, R160 to R166; 43_transfer_commands.md R212
to R214).
-/

namespace Sys2Proof.Machine

open Sys2Proof

/-- What an Operation, or one transaction of it, does to what XFER shows: status `st`, value `v` of an OK read,
S.IR_STATE `ir`, wire events `evs`, and the answers `rest` that the target still has. -/
structure Ran (s : State) (r : Status × State) (sel : Sel) (st : Status) (v : Word) (ir : IrState)
    (evs : List WireEvent) (rest : List Bool) : Prop where
  status : r.1 = st
  value : selIsRead sel = true → st = .ok → r.2.work.rdata = v
  ses : r.2.ses = { s.ses with irState := ir }
  trace : r.2.wire.trace = s.wire.trace ++ evs
  answers : r.2.wire.answers = rest
  field : r.2.wire.field = s.wire.field
  queue : r.2.queue = s.queue
  pin : r.2.pin = drivenLow
  host : r.2.host = s.host
  cfg : r.2.cfg = s.cfg

section

variable {s t : State} {r : Status × State} {sel : Sel} {wdata v : Word} {st : Status} {ir : IrState}
  {evs : List WireEvent} {rest : List Bool}

theorem Transacted.ran {k : Nat} (h : Transacted s r st evs k)
    (hv : selIsRead sel = true → st = .ok → r.2.work.rdata = v) (hir : r.2.ses.irState = ir)
    (hrest : s.wire.answers.drop k = rest) : Ran s r sel st v ir evs rest where
  status := h.status
  value := hv
  ses := by rw [h.ses, hir]
  trace := by rw [h.wire]
  answers := by rw [h.wire, ← hrest]
  field := by rw [h.wire]
  queue := h.queue
  pin := h.pin
  host := h.host
  cfg := h.cfg

/-! The retry loop (R212). -/

/-- The final status of an Operation whose last transaction has status `st`: a WAIT is the last one only where no retry
is left (R212). -/
def finalStatus (c : Config) (st : Status) : Status :=
  if st = .wait then if c.waitRetryMax = 0 then .wait else .timeout else st

theorem finalStatus_of_ne_wait {c : Config} (h : st ≠ .wait) : finalStatus c st = st := if_neg h

theorem finalStatus_eq_ok {c : Config} (h : finalStatus c st = .ok) : st = .ok := by
  unfold finalStatus at h
  split_ifs at h
  exact h

/-- The loop's last transaction, which is not answered WAIT while a retry is left, ends the loop. -/
theorem Ran.retryLoop_last {left : Nat} (h : Ran s (transact sel wdata s) sel st v ir evs rest)
    (hend : st = .wait → left = 0) :
    Ran s (retryLoop sel wdata left s) sel (finalStatus s.cfg st) v ir evs rest := by
  have hloop : retryLoop sel wdata left s = (finalStatus s.cfg st, (transact sel wdata s).2) := by
    by_cases hwait : st = .wait
    · obtain rfl := hend hwait
      simp [retryLoop, finalStatus, h.status, h.cfg, hwait]
    · have hne : (transact sel wdata s).1 ≠ .wait := by rwa [h.status]
      rw [retryLoop_done hne, finalStatus_of_ne_wait hwait, ← h.status]
  rw [hloop]
  exact { h with status := rfl, value := fun hread hok => h.value hread (finalStatus_eq_ok hok) }

/-- What WAIT transactions before it put on the wire stands before the rest of the Operation. -/
theorem Ran.after_waits {waits : List WireEvent} (h : Ran t r sel st v ir evs rest) (hf : WaitFrame s t)
    (htrace : t.wire.trace = s.wire.trace ++ waits) : Ran s r sel st v ir (waits ++ evs) rest where
  status := h.status
  value := h.value
  ses := by rw [h.ses, hf.ses]
  trace := by rw [h.trace, htrace, List.append_assoc]
  answers := h.answers
  field := h.field.trans hf.field
  queue := h.queue.trans hf.queue
  pin := h.pin
  host := h.host.trans hf.host
  cfg := h.cfg.trans hf.cfg

/-- `RunOp` is its loop, but for W.RETRY and W.ST. -/
theorem ran_runOp (h : Ran (s.setWork { s.work with retry := 0#8 })
      (retryLoop sel wdata s.cfg.waitRetryMax (s.setWork { s.work with retry := 0#8 })) sel st v ir evs rest) :
    Ran s (runOp sel wdata s) sel st v ir evs rest :=
  ⟨h.status, h.value, h.ses, h.trace, h.answers, h.field, h.queue, h.pin, h.host, h.cfg⟩

/-! XFER (R214). -/

/-- What XFER shows when its Operation has run. -/
structure Xferred (s t : State) (sel : Sel) (st : Status) (v : Word) (ir : IrState) (evs : List WireEvent)
    (rest : List Bool) : Prop where
  rspBuf : t.rspBuf = [0x05#8, st.code] ++ if selIsRead sel = true ∧ st = .ok then le32 v else []
  ses : t.ses = { s.ses with irState := ir, errCnt := if st.counted then satInc s.ses.errCnt else s.ses.errCnt }
  trace : t.wire.trace = s.wire.trace ++ evs
  answers : t.wire.answers = rest
  field : t.wire.field = s.wire.field
  queue : t.queue = s.queue
  pin : t.pin = drivenLow
  host : t.host = s.host
  cfg : t.cfg = s.cfg

/-- An error status is counted, and withholds the value of a read (R213, R214). -/
theorem Xferred.error (h : Xferred s t sel st v s.ses.irState evs rest) (hcount : st.counted = true) :
    t.rspBuf = [0x05#8, st.code] ∧ t.ses = { s.ses with errCnt := satInc s.ses.errCnt } := by
  have hok : st ≠ .ok := by
    rintro rfl
    cases hcount
  constructor
  · simp [h.rspBuf, hok]
  · rw [h.ses, if_pos hcount]

theorem resultBytes_eq (sel : Sel) (st : Status) (v : Word) :
    resultBytes sel st v = st.code :: if selIsRead sel = true ∧ st = .ok then le32 v else [] := by
  unfold resultBytes
  split_ifs <;> rfl

/-- In Connected XFER is its Operation, counted and answered (R214). -/
theorem xfer_connected (hconn : s.ses.dstate = .connected) (hr : codecReady s = true)
    (hrun : runOp sel wdata (setOp opXfer s) = r) :
    xfer sel wdata s = .next (respond (opXfer :: resultBytes sel r.1 r.2.work.rdata) (countError r.1 r.2)) := by
  have hr0 : codecReady (setOp opXfer s) = true := hr
  simp [xfer, hconn, hr0, hrun]

theorem xfer_of_ran (hconn : s.ses.dstate = .connected) (hr : codecReady s = true)
    (h : Ran (setOp opXfer s) (runOp sel wdata (setOp opXfer s)) sel st v ir evs rest) :
    ∃ t, xfer sel wdata s = .next t ∧ Xferred s t sel st v ir evs rest := by
  generalize hrun : runOp sel wdata (setOp opXfer s) = r at h
  refine ⟨_, xfer_connected hconn hr hrun, ?_⟩
  constructor
  case rspBuf =>
    have hvalue : (if selIsRead sel = true ∧ st = .ok then le32 r.2.work.rdata else []) =
        if selIsRead sel = true ∧ st = .ok then le32 v else [] :=
      if_ctx_congr Iff.rfl (fun ⟨hread, hok⟩ => by rw [h.value hread hok]) fun _ => rfl
    rw [h.status, resultBytes_eq, hvalue]
    rfl
  all_goals simp [h.status, h.ses, h.trace, h.answers, h.field, h.queue, h.pin, h.host, h.cfg]

end

/-! The transactions by the levels that answer them. -/

/-- One SWD-style transaction answered with `levels`, whatever answers follow. -/
def SwdAnswered (sel : Sel) (wdata : Word) (levels : List Bool) (st : Status) (v : Word)
    (evs : Config → Nat → List WireEvent) : Prop :=
  ∀ (s : State) (rest : List Bool), codecReady s = true → s.ses.disc = .swd → s.wire.answers = levels ++ rest →
    Ran s (transact sel wdata s) sel st v s.ses.irState (evs s.cfg s.ses.half) rest

section

variable {sel : Sel} {wdata v : Word}

/-- WAIT, FAULT and NO_ACK (R146 to R148). -/
theorem swdAnswered_refused {ack : BitVec 3} (hack : ack ≠ 1#3) :
    SwdAnswered sel wdata (bitsLsbFirst ack 3) (ackClass ack) v
      fun c h => refusedTrace c h sel (bitsLsbFirst ack 3) := by
  intro s rest hr hd ha
  obtain rfl := nextAck_of_answers ha
  obtain ⟨ht, hses⟩ := transactSwd_refused (sel := sel) (wdata := wdata) hr hack
  rw [targetBits_of_nextAck rfl] at ht
  rw [transact_swd hd]
  exact ht.ran (fun _ hok => absurd (ackClass_ok_iff.1 hok) hack) (by rw [hses]) (by rw [ha, List.drop_left' (by simp)])

/-- An OK write (R145). -/
theorem swdAnswered_write (hw : selIsRead sel = false) :
    SwdAnswered sel wdata ackOk .ok v fun c h => writeTrace c h sel wdata := by
  intro s rest hr hd ha
  obtain ⟨ht, hses⟩ := transactSwd_write (wdata := wdata) hr (nextAck_of_answers (ack := 1#3) ha) hw
  rw [transact_swd hd]
  exact ht.ran (by simp [hw]) (by rw [hses]) (by rw [ha]; rfl)

/-- A read acknowledged OK: the status is the parity check's (R144, R149). -/
theorem swdAnswered_read {par : Bool} (hread : selIsRead sel = true) :
    SwdAnswered sel wdata (ackOk ++ (bitsLsbFirst v 32 ++ [par])) (readStatus v par) v
      fun c h => readTrace c h sel (bitsLsbFirst v 32) par := by
  intro s rest hr hd ha
  obtain ⟨hack, hdata, hv, hpar⟩ := read_data ha
  obtain ⟨ht, hses, hrdata⟩ := transactSwd_read (wdata := wdata) hr hack hread
  rw [hdata, hv, hpar] at ht
  rw [transact_swd hd]
  exact ht.ran (fun _ _ => hrdata.trans hv) (by rw [hses]) (by rw [ha, List.drop_left' (by simp [ackOk])])

/-- A scan-style transaction: the chain-select field, where it is needed, takes the levels `lead`, and the word takes
three levels and the value (R161 to R164). -/
theorem transact_scan_ran {s : State} {lead low rest : List Bool} (hr : codecReady s = true) (hd : s.ses.disc = .scan)
    (hlead : lead.length = if s.ses.irState = irOf (selPort sel) then 0 else s.cfg.scanIrLen) (hlow : low.length = 3)
    (ha : s.wire.answers = lead ++ (low ++ bitsLsbFirst v 32) ++ rest) :
    Ran s (transact sel wdata s) sel .ok v (irOf (selPort sel))
      ((if s.ses.irState = irOf (selPort sel) then []
          else scans s.ses.half (bitsLsbFirst (scanIrCode s.cfg (selPort sel)) s.cfg.scanIrLen) lead) ++
        scans s.ses.half (bitsLsbFirst (scanWord sel wdata) 35) (low ++ bitsLsbFirst v 32)) rest := by
  obtain ⟨ht, hir, hrdata⟩ := transactScan_ok (sel := sel) (wdata := wdata) hr
  have hlead : lead.length = scanLead sel s := hlead
  have hins : targetBits 35 (consume (scanLead sel s) s) = low ++ bitsLsbFirst v 32 :=
    targetBits_prefix (rest := rest) (by simp [ha, ← hlead]) (by simp [hlow])
  have hselect : targetBits (scanLead sel s) s = lead := targetBits_prefix (by rw [ha, List.append_assoc]) hlead
  have htrace : scanTrace sel wdata s =
      (if s.ses.irState = irOf (selPort sel) then []
          else scans s.ses.half (bitsLsbFirst (scanIrCode s.cfg (selPort sel)) s.cfg.scanIrLen) lead) ++
        scans s.ses.half (bitsLsbFirst (scanWord sel wdata) 35) (low ++ bitsLsbFirst v 32) := by
    unfold scanTrace
    unfold scanLead at hins hselect
    split_ifs at hins hselect ⊢
    · rw [← consume_zero, hins, List.nil_append]
    · rw [hins, hselect]
  have htransact : transact sel wdata s = transactScan sel wdata s := by simp [transact, hd]
  rw [← htrace, htransact]
  refine ht.ran (fun hread _ => ?_) hir ?_
  · rw [hrdata hread, hins, scan_value v hlow]
  · rw [ha, List.drop_left' (by simp [hlead, hlow])]

end

/-! XFER on listed answers. -/

section

variable {s : State} {sel : Sel} {wdata v : Word} (hconn : s.ses.dstate = .connected) (hr : codecReady s = true)

include hconn hr

/-- XFER in the SWD discipline: `n` transactions answered WAIT, then the last one, answered with `levels`. -/
theorem xfer_swdAnswered {levels rest : List Bool} {st : Status} {evs : Config → Nat → List WireEvent} {n : Nat}
    (hlast : SwdAnswered sel wdata levels st v evs) (hd : s.ses.disc = .swd) (hn : n ≤ s.cfg.waitRetryMax)
    (hend : st = .wait → n = s.cfg.waitRetryMax) (ha : s.wire.answers = waitAnswers n ++ levels ++ rest) :
    ∃ t, xfer sel wdata s = .next t ∧
      Xferred s t sel (finalStatus s.cfg st) v s.ses.irState
        (waitTrace s.cfg s.ses.half sel n ++ evs s.cfg s.ses.half) rest := by
  let s0 := (setOp opXfer s).setWork { (setOp opXfer s).work with retry := 0#8 }
  obtain ⟨w, hloop, hf, hans, htrace⟩ := retryLoop_waits (sel := sel) (wdata := wdata) n s.cfg.waitRetryMax s0
    (levels ++ rest) hn hr hd (by rw [← List.append_assoc]; exact ha)
  have hwses : w.ses = s.ses := hf.ses
  have hwcfg : w.cfg = s.cfg := hf.cfg
  have hw := (hlast w rest hf.ready (by rw [hwses, hd]) hans).retryLoop_last (left := s.cfg.waitRetryMax - n)
    fun h => by rw [hend h, Nat.sub_self]
  rw [← hloop, hwses, hwcfg] at hw
  exact xfer_of_ran hconn hr (ran_runOp (hw.after_waits hf htrace))

/-- The same where the last transaction is not answered WAIT: its status is XFER's. -/
theorem xfer_swdAnswered_end {levels rest : List Bool} {st : Status} {evs : Config → Nat → List WireEvent} {n : Nat}
    (hlast : SwdAnswered sel wdata levels st v evs) (hd : s.ses.disc = .swd) (hn : n ≤ s.cfg.waitRetryMax)
    (hst : st ≠ .wait) (ha : s.wire.answers = waitAnswers n ++ levels ++ rest) :
    ∃ t, xfer sel wdata s = .next t ∧
      Xferred s t sel st v s.ses.irState (waitTrace s.cfg s.ses.half sel n ++ evs s.cfg s.ses.half) rest := by
  have h := xfer_swdAnswered hconn hr hlast hd hn (fun h => absurd h hst) ha
  rwa [finalStatus_of_ne_wait hst] at h

/-- XFER in the scan discipline: one transaction. -/
theorem xfer_scan {lead low rest : List Bool} (hd : s.ses.disc = .scan)
    (hlead : lead.length = if s.ses.irState = irOf (selPort sel) then 0 else s.cfg.scanIrLen) (hlow : low.length = 3)
    (ha : s.wire.answers = lead ++ (low ++ bitsLsbFirst v 32) ++ rest) :
    ∃ t, xfer sel wdata s = .next t ∧
      Xferred s t sel .ok v (irOf (selPort sel))
        ((if s.ses.irState = irOf (selPort sel) then []
            else scans s.ses.half (bitsLsbFirst (scanIrCode s.cfg (selPort sel)) s.cfg.scanIrLen) lead) ++
          scans s.ses.half (bitsLsbFirst (scanWord sel wdata) 35) (low ++ bitsLsbFirst v 32)) rest := by
  let s0 := (setOp opXfer s).setWork { (setOp opXfer s).work with retry := 0#8 }
  have h : Ran s0 (transact sel wdata s0) sel .ok v _ _ rest := transact_scan_ran hr hd hlead hlow ha
  exact xfer_of_ran hconn hr (ran_runOp (h.retryLoop_last nofun))

end

end Sys2Proof.Machine
end

section
/-!
The statements of XFER (43_transfer_commands.md R211 to R215), and of a value written and read back (95 sections 1 and
2).
-/

namespace Sys2Proof.Machine

open Sys2Proof

section

variable {i : Instr} {sel : Sel}

/-- Either form of XFER is one Operation, with the word that its form gives (R214). -/
theorem exec_xferForm {wdata : Word}
    (h : (∃ loc, i = .xferR loc ∧ sel = selOf loc true ∧ wdata = 0#32) ∨
      ∃ loc, i = .xferW loc wdata ∧ sel = selOf loc false) :
    exec i = xfer sel wdata := by
  obtain ⟨loc, rfl, rfl, rfl⟩ | ⟨loc, rfl, rfl⟩ := h <;> rfl

theorem exec_xfer
    (h : (∃ loc, i = .xferR loc ∧ sel = selOf loc true) ∨ ∃ loc v, i = .xferW loc v ∧ sel = selOf loc false) :
    ∃ wdata, exec i = xfer sel wdata := by
  obtain ⟨loc, hi, hsel⟩ | ⟨loc, v, hi, hsel⟩ := h
  · exact ⟨0#32, exec_xferForm (.inl ⟨loc, hi, hsel, rfl⟩)⟩
  · exact ⟨v, exec_xferForm (.inr ⟨loc, hi, hsel⟩)⟩

end

/-- Settles O30: the parity check of the last transaction gives PARITY_ERR, whose record holds no value. -/
theorem xferReadParityError : Obligations.XferReadParityError := by
  unfold Obligations.XferReadParityError
  intro s loc v n rest hconn hr hd hn ha
  have hst : readStatus v (!parity32 v) = .parityErr := by simp [readStatus]
  have hlast := swdAnswered_read (sel := selOf loc true) (wdata := 0#32) (v := v) (par := !parity32 v) (by simp)
  rw [hst] at hlast
  obtain ⟨t, hexec, ht⟩ := xfer_swdAnswered_end hconn hr hlast hd hn nofun ha
  obtain ⟨hrsp, hses⟩ := ht.error rfl
  exact ⟨t, hexec, hrsp, by rw [ht.trace, List.append_assoc], ht.answers, ht.field, hses, ht.queue, ht.pin, ht.host,
    ht.cfg⟩

/-- Settles O31: the last transaction is an OK write. -/
theorem xferWriteDrivesValue : Obligations.XferWriteDrivesValue := by
  unfold Obligations.XferWriteDrivesValue
  intro s loc v n rest hconn hr hd hn ha
  have hlast := swdAnswered_write (sel := selOf loc false) (wdata := v) (v := 0#32) (by simp)
  obtain ⟨t, hexec, ht⟩ := xfer_swdAnswered_end hconn hr hlast hd hn nofun ha
  exact ⟨t, hexec, by simp [ht.rspBuf, Status.code], by rw [ht.trace, List.append_assoc], ht.answers, ht.field,
    ht.ses, ht.queue, ht.pin, ht.host, ht.cfg⟩

/-- An acknowledgement that is neither OK nor WAIT is FAULT or no valid acknowledgement (R143). -/
theorem ackClass_fault_or_noAck {ack : BitVec 3} (hok : ack ≠ 1#3) (hwait : ack ≠ 2#3) :
    ackClass ack = if ack = 4#3 then .fault else .noAck := by
  simp [ackClass, hok, hwait]

/-- Settles O32: the last transaction is refused with an acknowledgement that the loop does not retry. -/
theorem xferFaultOrNoAck : Obligations.XferFaultOrNoAck := by
  unfold Obligations.XferFaultOrNoAck
  intro s i sel ack n rest hform hconn hr hd hn hok hwait ha
  obtain ⟨wdata, hi⟩ := exec_xfer hform
  have hne : ackClass ack ≠ .wait := fun h => hwait (ackClass_wait_iff.1 h)
  have hlast := swdAnswered_refused (sel := sel) (wdata := wdata) (v := 0#32) hok
  obtain ⟨t, hexec, ht⟩ := xfer_swdAnswered_end hconn hr hlast hd hn hne ha
  rw [ackClass_fault_or_noAck hok hwait] at ht
  obtain ⟨hrsp, hses⟩ := ht.error (by split_ifs <;> rfl)
  exact ⟨t, by rw [hi, hexec], by rw [hrsp]; split_ifs <;> rfl, by rw [ht.trace, List.append_assoc], ht.answers,
    ht.field, hses, ht.queue, ht.pin, ht.host, ht.cfg⟩

theorem waitAnswers_succ (n : Nat) : waitAnswers (n + 1) = waitAnswers n ++ ackWait := by
  simp [waitAnswers, List.replicate_succ']

theorem waitTrace_succ (c : Config) (h : Nat) (sel : Sel) (n : Nat) :
    waitTrace c h sel (n + 1) = waitTrace c h sel n ++ refusedTrace c h sel ackWait := by
  simp [waitTrace, List.replicate_succ']

/-- Settles O33: the loop's last transaction is one more WAIT, with no retry left. -/
theorem xferWaitBudgetExhausted : Obligations.XferWaitBudgetExhausted := by
  unfold Obligations.XferWaitBudgetExhausted
  intro s i sel rest hform hconn hr hd ha
  obtain ⟨wdata, hi⟩ := exec_xfer hform
  have hlast := swdAnswered_refused (sel := sel) (wdata := wdata) (v := 0#32) (ack := 2#3) (by decide)
  have ha : s.wire.answers = waitAnswers s.cfg.waitRetryMax ++ bitsLsbFirst 2#3 3 ++ rest := by
    rw [ha, waitAnswers_succ]
    rfl
  obtain ⟨t, hexec, ht⟩ := xfer_swdAnswered hconn hr hlast hd le_rfl (fun _ => rfl) ha
  have hst : finalStatus s.cfg (ackClass 2#3) = if s.cfg.waitRetryMax = 0 then .wait else .timeout := rfl
  rw [hst] at ht
  obtain ⟨hrsp, hses⟩ := ht.error (by split_ifs <;> rfl)
  refine ⟨t, by rw [hi, hexec], by rw [hrsp]; split_ifs <;> rfl, ?_, ht.answers, ht.field, hses, ht.queue, ht.pin,
    ht.host, ht.cfg⟩
  rw [ht.trace, waitTrace_succ]
  rfl

/-- Settles O34: the Operation is one scan transaction. -/
theorem xferScan : Obligations.XferScan := by
  unfold Obligations.XferScan
  intro s i sel wdata lead low v rest hform hconn hr hd hlead hlow ha
  obtain ⟨t, hexec, ht⟩ := xfer_scan (wdata := wdata) hconn hr hd hlead hlow ha
  exact ⟨t, by rw [exec_xferForm hform, hexec], by simp [ht.rspBuf, Status.code], by rw [ht.trace, List.append_assoc],
    ht.answers, ht.field, ht.ses, ht.queue, ht.pin, ht.host, ht.cfg⟩

/-- Of the statuses that an Operation can end with, all but OK count (R211, R213). -/
theorem counted_of_runOpStatus {c : Config} {d : Disc} {isRead : Bool} {st : Status}
    (h : runOpStatus c d isRead st) : st.counted = !decide (st = .ok) := by
  cases st <;> simp_all [runOpStatus, Status.counted]

/-- Settles O35: whatever the target answers, the Operation runs as `runOp_spec` says, and XFER shows it. -/
theorem xferAlwaysCompletes : Obligations.XferAlwaysCompletes := by
  unfold Obligations.XferAlwaysCompletes
  intro s i sel wdata hform hconn hr
  obtain ⟨st, evs, k, htrans, hst, hwire, hswd, hscan⟩ :=
    runOp_spec (sel := sel) (wdata := wdata) (s := setOp opXfer s) hr
  obtain ⟨t, hexec, ht⟩ := xfer_of_ran hconn hr (htrans.ran (fun _ _ => rfl) rfl rfl)
  have hir : t.ses.irState = (runOp sel wdata (setOp opXfer s)).2.ses.irState := by rw [ht.ses]
  have hcount := counted_of_runOpStatus hst
  refine ⟨t, st, _, evs, by rw [exec_xferForm hform, hexec], hst, hwire, ht.rspBuf, ?_, ?_, ?_, ht.trace, ht.field,
    ht.queue, ht.pin, ht.host, ht.cfg⟩
  · rw [ht.ses, hcount]
    by_cases hok : st = .ok <;> simp [hok]
  · intro hd
    rw [hir, hswd hd]
    rfl
  · intro hd
    rw [hir, hscan hd]

/-! The round trip. -/

@[simp] theorem drivenLevels_append (a b : List WireEvent) :
    drivenLevels (a ++ b) = drivenLevels a ++ drivenLevels b := by
  simp [drivenLevels]

@[simp] theorem drivenLevels_drives (h : Nat) (levels : List Bool) : drivenLevels (drives h levels) = levels := by
  simp [drivenLevels, drives, List.filterMap_map]

/-- The last levels a write drives are those of its data phase (R145). -/
theorem drivenLevels_writeTrace (trace : List WireEvent) (c : Config) (h : Nat) (sel : Sel) (v : Word) :
    ∃ before, drivenLevels (trace ++ writeTrace c h sel v) = before ++ (bitsLsbFirst v 32 ++ [parity32 v]) :=
  ⟨drivenLevels (trace ++ (openingTrace c h sel ackOk ++ turns c h)), by simp [writeTrace]⟩

/-- Lines driven low again leave the codec as ready as it was (R157, R166). -/
theorem codecReady_of_drivenLow {s t : State} (hr : codecReady s = true) (hses : t.ses = s.ses)
    (hpin : t.pin = drivenLow) (hcfg : t.cfg = s.cfg) : codecReady t = true := by
  rw [codecReady_iff] at hr ⊢
  obtain ⟨hdisc, -, -, -, haux⟩ := hr
  rw [hses, hpin, hcfg]
  exact ⟨hdisc, rfl, rfl, rfl, haux⟩

/-- Settles O37: the write leaves the data phase's 33 levels last in the trace, and the read samples them. -/
theorem roundTrip : Obligations.RoundTrip := by
  unfold Obligations.RoundTrip
  intro s loc v rest rest2 hconn hr hd ha
  obtain ⟨t, hexec, -, htrace, -, -, hses, -, hpin, -, hcfg⟩ :=
    xferWriteDrivesValue s loc v 0 rest hconn hr hd (Nat.zero_le _) (by rw [ha]; rfl)
  refine ⟨t, hexec, ?_⟩
  rintro kept rfl
  have hkept : (drivenLevels t.wire.trace).drop ((drivenLevels t.wire.trace).length - 33) =
      bitsLsbFirst v 32 ++ [parity32 v] := by
    obtain ⟨before, hlevels⟩ := drivenLevels_writeTrace
      (s.wire.trace ++ waitTrace s.cfg s.ses.half (selOf loc false) 0) s.cfg s.ses.half (selOf loc false) v
    rw [htrace, hlevels]
    simp
  rw [hkept]
  generalize hu : t.setWire { t.wire with answers := ackOk ++ (bitsLsbFirst v 32 ++ [parity32 v]) ++ rest2 } = u
  have hans : u.wire.answers = waitAnswers 0 ++ (ackOk ++ (bitsLsbFirst v 32 ++ [parity32 v])) ++ rest2 := by
    rw [← hu]
    rfl
  have hses_u : u.ses = s.ses := by rw [← hu, State.setWire_ses, hses]
  have hru : codecReady u = true := codecReady_of_drivenLow hr hses_u (by rw [← hu, State.setWire_pin, hpin])
    (by rw [← hu, State.setWire_cfg, hcfg])
  have hst : readStatus v (parity32 v) = .ok := by simp [readStatus]
  have hlast := swdAnswered_read (sel := selOf loc true) (wdata := 0#32) (v := v) (par := parity32 v) (by simp)
  rw [hst] at hlast
  obtain ⟨w, hread, hw⟩ := xfer_swdAnswered_end (s := u) (by rw [hses_u, hconn]) hru hlast
    (by rw [hses_u, hd]) (Nat.zero_le _) nofun hans
  exact ⟨w, hread, by simp [hw.rspBuf, Status.code]⟩

end Sys2Proof.Machine
end

section
/-!
The statements of QEXEC (43_transfer_commands.md R221 to R229), from what the drain does.
-/

namespace Sys2Proof.Machine

open Sys2Proof

section

variable {s u : State} {rs : List (Status × Word)} {evs : List (List WireEvent)}

/-- Outside Idle QEXEC drains the whole queue and answers with the batch's header and records (R222, R226). -/
theorem execQexec_drains (hidle : s.ses.dstate ≠ .idle) (hq : QueueInRange s)
    (hr : s.queue.count = 0 ∨ codecReady s = true) :
    ∃ u rs evs, exec .qexec s = .next (respond (batchHeader u.work ++ u.rspBuf) (setDState .connected u)) ∧
      Drained (startBatch (setOp opQexec s)) u rs evs := by
  obtain ⟨rs, evs, hu⟩ := drain_spec s.queue.count (startBatch (setOp opQexec s)) rfl
    ⟨hq.slots_length, hq.head_lt, hq.count_le⟩ hr nofun
  refine ⟨_, rs, evs, ?_, hu⟩
  have hgo : ¬ (s.queue.count ≠ 0 ∧ codecReady (setOp opQexec s) = false) := by
    rintro ⟨hcount, hready⟩
    exact absurd (hr.resolve_left hcount) (Bool.eq_false_iff.1 hready)
  show execQexec s = _
  unfold execQexec
  dsimp only
  rw [if_neg (by simpa using hidle), if_neg (by simpa using hgo)]
  rfl

/-- The header that the working registers hold at the end is that of the final statuses (R224, R226). -/
theorem Drained.header (h : Drained (startBatch s) u rs evs) :
    batchHeader u.work = batchHeaderOf s.ses.aoe (rs.map Prod.fst) := by
  have htotal : u.work.total = BitVec.ofNat 8 rs.length := by rw [h.total, h.rs_length]; rfl
  obtain ⟨hregs, -⟩ := h.running rfl
  have haoe : (startBatch s).ses.aoe = s.ses.aoe := rfl
  rw [haoe] at hregs
  unfold batchHeaderOf
  split
  next hnone =>
    rw [hnone] at hregs
    obtain ⟨hexecuted, hfailidx, hbstatus⟩ := hregs
    simp [batchHeader, htotal, hexecuted, hfailidx, hbstatus, startBatch]
  next k hk =>
    rw [hk] at hregs
    obtain ⟨hexecuted, hfailidx, hbstatus⟩ := hregs
    simp [batchHeader, htotal, hexecuted, hfailidx, hbstatus, startBatch]

/-- Settles O41: QEXEC is the drain of the whole queue from a fresh batch, which `drain_spec` describes. -/
theorem qexecDrainsInOrder : Obligations.QexecDrainsInOrder := by
  unfold Obligations.QexecDrainsInOrder
  intro s hidle hq hr
  obtain ⟨u, rs, evs, hexec, hu⟩ := execQexec_drains hidle hq hr
  obtain ⟨-, hentries⟩ := hu.running rfl
  have hcfg : u.cfg = s.cfg := hu.cfg
  refine ⟨_, rs, evs, hexec, hu.rs_length, hu.evs_length, ?_, hu.trace, hentries, ?_, hu.irSwd, hu.irScan, hu.count, ?_,
    hu.pin, hu.field, hu.host, hu.cfg⟩
  · rw [respond_rspBuf, hu.header, hu.rspBuf]
    rfl
  · rw [respond_ses, setDState_ses, hu.ses]
    rfl
  · obtain ⟨hlength, hhead, hcount⟩ := hu.queueOk
    exact ⟨hlength, hhead, hcount, by simpa [hcfg] using hq.qcap_le⟩

/-! The scan discipline: every status is OK, so that no batch stops (R165, R227 c). -/

theorem runOpStatus_scan {c : Config} {isRead : Bool} {st : Status} (h : runOpStatus c .scan isRead st) : st = .ok := by
  cases st <;> simp_all [runOpStatus]

theorem stopIndex_stops {aoe : Bool} {sts : List Status} {k : Nat} (h : stopIndex aoe sts = some k) :
    ∃ st, sts[k]? = some st ∧ st.stops = true := by
  unfold stopIndex at h
  split_ifs at h
  obtain ⟨hk, hstops, -⟩ := List.findIdx?_eq_some_iff_getElem.1 h
  exact ⟨_, List.getElem?_eq_getElem hk, hstops⟩

/-- A batch whose executed Operations are all OK executes them all: none of them could have stopped it. -/
theorem all_ok_of_executed_ok {aoe : Bool} {rs : List (Status × Word)}
    (h : ∀ (k : Nat) (r : Status × Word), rs[k]? = some r →
      (r.1 = .notExecuted ↔ ∃ j, stopIndex aoe (rs.map Prod.fst) = some j ∧ j < k) ∧
        (r.1 ≠ .notExecuted → r.1 = .ok)) :
    ∃ vs : List Word, rs = vs.map (Prod.mk .ok) := by
  have hnone : ∀ j, stopIndex aoe (rs.map Prod.fst) ≠ some j := by
    intro j hj
    obtain ⟨st, hst, hstops⟩ := stopIndex_stops hj
    rw [List.getElem?_map, Option.map_eq_some_iff] at hst
    obtain ⟨r, hr, rfl⟩ := hst
    obtain ⟨-, hrun⟩ := h j r hr
    have hne : r.1 ≠ .notExecuted := fun he => by
      rw [he] at hstops
      cases hstops
    rw [hrun hne] at hstops
    cases hstops
  have hok : ∀ r ∈ rs, r = (.ok, r.2) := by
    intro r hr
    obtain ⟨k, hk⟩ := List.mem_iff_getElem?.1 hr
    obtain ⟨hskip, hrun⟩ := h k r hk
    refine Prod.ext (hrun fun he => ?_) rfl
    obtain ⟨j, hj, -⟩ := hskip.1 he
    exact hnone j hj
  refine ⟨rs.map Prod.snd, ?_⟩
  rw [List.map_map]
  exact (List.map_id rs).symm.trans (List.map_congr_left hok)

theorem stopIndex_replicate_ok (aoe : Bool) (n : Nat) : stopIndex aoe (List.replicate n .ok) = none := by
  simp [stopIndex, Status.stops]

theorem countP_counted_replicate_ok (n : Nat) : (List.replicate n .ok).countP Status.counted = 0 := by
  simp [List.countP_replicate, Status.counted]

theorem batchHeaderOf_replicate_ok (aoe : Bool) (n : Nat) :
    batchHeaderOf aoe (List.replicate n .ok) =
      [0x07#8, 0x00#8, BitVec.ofNat 8 n, BitVec.ofNat 8 n, 0xFF#8] := by
  simp only [batchHeaderOf, stopIndex_replicate_ok, List.length_replicate]
  rfl

end

/-- Settles O42: as every batch, with the one status that the scan discipline allows. -/
theorem qexecScanNeverFails : Obligations.QexecScanNeverFails := by
  unfold Obligations.QexecScanNeverFails
  intro s hidle hq hr hd
  obtain ⟨t, rs, evs, hexec, hrs, hevs, hrsp, htrace, hentries, hses, -, hir, hcount, -⟩ :=
    qexecDrainsInOrder s hidle hq (.inr hr)
  rw [hd] at hentries
  obtain ⟨vs, rfl⟩ := all_ok_of_executed_ok (aoe := s.ses.aoe) (rs := rs) fun k r hk => by
    obtain ⟨hlt, -⟩ := List.getElem?_eq_some_iff.1 hk
    obtain ⟨hskip, -, hst, -⟩ := hentries k _ r _ (List.getElem?_eq_getElem (by simpa [hrs] using hlt)) hk
      (List.getElem?_eq_getElem (by rwa [hevs, ← hrs]))
    exact ⟨hskip, fun hne => runOpStatus_scan (hst hne)⟩
  have hlength : vs.length = s.queue.count := by simpa using hrs
  have hsts : (vs.map (Prod.mk Status.ok)).map Prod.fst = List.replicate s.queue.count .ok := by
    rw [List.map_map, ← hlength]
    exact List.map_const'
  rw [hsts] at hrsp hses
  refine ⟨t, vs, evs, hexec, hlength, hevs, htrace, ?_, ?_, ?_, hir hd, hcount⟩
  · intro k e v ev he hv hev
    obtain ⟨-, -, -, hwire⟩ := hentries k e (.ok, v) ev he (by simp [hv]) hev
    obtain ⟨-, hscan⟩ := hwire nofun
    exact hscan
  · rw [hrsp, batchHeaderOf_replicate_ok]
  · rw [hses, countP_counted_replicate_ok]
    rfl

end Sys2Proof.Machine
end

section
/-!
The statements of the transaction codec: the acknowledgement parser, the parity functions, the durations, and the wire
fields run one after the other (41_transaction_codec.md R142 to R153, 70_reset_and_hazards.md R303).
-/

namespace Sys2Proof.Machine

open Sys2Proof

/-- Settles O7: the three valid acknowledgements are tested one after the other, and any other value falls through. -/
theorem ackParser : Obligations.AckParser := by
  unfold Obligations.AckParser
  refine ⟨rfl, rfl, rfl, fun a hok hwait hfault => ?_⟩
  simp [ackClass, hok, hwait, hfault]

/-! Parity (R150). -/

/-- The exclusive or of a list of bits is 1 exactly for an odd number of ones. -/
theorem xorBits_eq_true_iff (bits : List Bool) : xorBits bits = true ↔ bits.count true % 2 = 1 := by
  induction bits with
  | nil => simp [xorBits]
  | cons b bits ih =>
    have heven : xorBits bits = false ↔ bits.count true % 2 = 0 := by
      rw [← Bool.not_eq_true, ih]
      omega
    cases b with
    | false => simpa [xorBits] using ih
    | true =>
      rw [xorBits, Bool.true_xor, Bool.not_eq_true', heven, List.count_cons_self]
      omega

/-- A list of bits with its exclusive or behind it has an even number of ones (R99). -/
theorem count_append_xorBits (bits : List Bool) : (bits ++ [xorBits bits]).count true % 2 = 0 := by
  have hodd := xorBits_eq_true_iff bits
  rw [List.count_append]
  cases hx : xorBits bits with
  | false =>
    have heven : bits.count true % 2 = 0 := by simpa [hx] using hodd
    simpa using heven
  | true =>
    have hone : bits.count true % 2 = 1 := by simpa [hx] using hodd
    rw [List.count_singleton_self]
    omega

/-- Settles O8: the parity bit is the exclusive or of the bits before it, and the examples are computed. -/
theorem dataPhaseHasEvenParity : Obligations.DataPhaseHasEvenParity := by
  unfold Obligations.DataPhaseHasEvenParity
  refine ⟨fun sel => ⟨rfl, ?_⟩, fun v => ⟨xorBits_eq_true_iff _, bits_dataWord v _, ?_⟩, ?_⟩
  · revert sel
    decide
  · rw [bits_dataWord]
    exact count_append_xorBits _
  · decide

/-! Durations (R303). -/

theorem traceTicks_openingTrace (c : Config) (h : Nat) (sel : Sel) (ack : List Bool) :
    traceTicks (openingTrace c h sel ack) = (8 + c.trn + ack.length) * (2 * h) := by
  simp only [openingTrace, traceTicks_append, traceTicks_drives, traceTicks_turns, traceTicks_samples,
    bitsLsbFirst_length]
  ring

@[simp] theorem ackOk_length : ackOk.length = 3 := rfl

/-- Settles O53: the cycles of each piece of the transaction are added up. -/
theorem transactionDurations : Obligations.TransactionDurations := by
  unfold Obligations.TransactionDurations
  intro c h sel v par ack
  refine ⟨?_, ?_, ?_⟩
  · simp only [readTrace, traceTicks_append, traceTicks_openingTrace, traceTicks_samples, traceTicks_turns,
      List.length_append, List.length_singleton, bitsLsbFirst_length, ackOk_length]
    ring
  · simp only [writeTrace, traceTicks_append, traceTicks_openingTrace, traceTicks_turns, traceTicks_drives,
      List.length_append, List.length_singleton, bitsLsbFirst_length, ackOk_length]
    ring
  · simp only [refusedTrace, traceTicks_append, traceTicks_openingTrace, traceTicks_turns,
      bitsLsbFirst_length]
    ring

/-! The wire fields compose. -/

/-- The acknowledgement does not write W.SEL, which says the direction of the data field (R142). -/
theorem execSwdAck_sel {ack : BitVec 3} {s t : State} (h : exec (.swdAck ack) s = .next t) :
    t.work.sel = s.work.sel := by
  have hturn : (toSample s).work.sel = s.work.sel := by
    cases hd : s.pin.dioOE with
    | true => simp [toSample_driving s hd]
    | false => rw [toSample_sampling s hd]
  change execSwdAck ack s = .next t at h
  unfold execSwdAck at h
  split_ifs at h
  obtain rfl := Host.Outcome.next.inj h
  simpa [swdAcknowledge] using hturn

theorem swdReady_iff {s : State} :
    swdReady s = true ↔ s.ses.disc = .swd ∧ s.pin.clkOE = true ∧ s.pin.clkO = false := by
  simp [swdReady, and_assoc]

/-- Settles O50: the request leaves the line driven and the acknowledgement leaves it sampled, so that the fields'
turnarounds fall where the transaction has them. -/
theorem wireFieldsComposeTransaction : Obligations.WireFieldsComposeTransaction := by
  unfold Obligations.WireFieldsComposeTransaction
  intro s sel v par hr hd
  obtain ⟨hdisc, -, -⟩ := swdReady_iff.1 hr
  obtain ⟨t1, hexec1, hsel1, hwire1, hpin1, hses1, -, -, -, hcfg1⟩ := swdReqDrivesHeader s sel hr
  have hr1 : swdReady t1 = true := swdReady_iff.2 ⟨by rw [hses1, hdisc], by rw [hpin1], by rw [hpin1]⟩
  obtain ⟨t2, hexec2, -, -, htrace2, -, hd2, hclkO2, hclkOE2, hses2, -, -, -, hcfg2⟩ := swdAckSamplesAck t1 1#3 hr1
  have hr2 : swdReady t2 = true := swdReady_iff.2 ⟨by rw [hses2, hses1, hdisc], hclkOE2, hclkO2⟩
  have hsel2 : t2.work.sel = sel := (execSwdAck_sel hexec2).trans hsel1
  have hopening : t2.wire.trace = s.wire.trace ++ openingTrace s.cfg s.ses.half sel ackOk := by
    rw [htrace2, hwire1, hpin1, hses1, hcfg1, hd, show bitsLsbFirst 1#3 3 = ackOk from rfl]
    simp [openingTrace]
  cases hread : selIsRead sel with
  | false =>
    obtain ⟨t3, hexec3, hwire3, hpin3, -⟩ := swdDataDrivesWrite t2 v par hr2 (by rw [hsel2, hread])
    refine ⟨t1, t2, t3, hexec1, hexec2, hexec3, fun _ => ⟨?_, hpin3⟩, nofun⟩
    rw [hwire3, hopening, hd2, hses2, hses1, hcfg2, hcfg1]
    simp [writeTrace]
  | true =>
    obtain ⟨t3, hexec3, hrdata3, -, hst3, htrace3, -⟩ := swdDataSamplesRead t2 v par hr2 (by rw [hsel2, hread])
    refine ⟨t1, t2, t3, hexec1, hexec2, hexec3, nofun, fun _ => ⟨?_, hrdata3, by rw [hst3, readStatus_code]⟩⟩
    rw [htrace3, hopening, hd2, hses2, hses1]
    simp [readTrace]

end Sys2Proof.Machine
end

section
/-!
The statements of the session commands INFO, CONNECT, CLOCK, RESET and ABORT, and of the clock clamp
(42_session_commands.md): for each command one equation per way it can end, then its effect read off from that equation.
-/

namespace Sys2Proof.Machine

open Sys2Proof

/-- A refused command answers with its opcode byte and the status, and has no effect (R88). -/
theorem refuses_of_exec_eq {i : Instr} {s : State} (op : Byte) (st : Status)
    (h : exec i s = raise st (setOp op s)) :
    ∃ t, exec i s = .next t ∧ t.rspBuf = [op, st.code] ∧ Quiet s t :=
  ⟨_, h, by simp, quiet_of_raise rfl⟩

/-- Settles O21: INFO is the response built from the configuration, and writes the response alone. -/
theorem infoAnswersConstant : Obligations.InfoAnswersConstant := by
  unfold Obligations.InfoAnswersConstant
  intro s
  exact ⟨respond (infoResponse s.cfg) (setOp opInfo s), rfl, execInfo_quiet rfl, respond_rspBuf _ _⟩

/-! CONNECT. -/

section

variable {s : State} {disc flags : Byte}

/-- An unknown discipline, a missing pin and a reserved flag are all refused alike (R183). -/
theorem execConnect_illegal
    (h : (disc ≠ 1#8 ∧ disc ≠ 2#8) ∨ (disc = 2#8 ∧ s.cfg.hasAux = false) ∨ flags.extractLsb' 1 7 ≠ 0#7) :
    execConnect disc flags s = raise .badCommand (setOp opConnect s) := by
  unfold execConnect
  extract_lets s0
  split_ifs with hdisc haux hflags
  · rfl
  · rfl
  · rfl
  all_goals exact absurd (h.resolve_left hdisc) (not_or_intro haux hflags)

/-- With legal fields, the dispatcher state alone decides (R184). -/
theorem execConnect_legal (hdisc : disc = 1#8 ∨ (disc = 2#8 ∧ s.cfg.hasAux = true))
    (hflags : flags.extractLsb' 1 7 = 0#7) :
    execConnect disc flags s =
      if s.ses.dstate = .queuing then raise .badState (setOp opConnect s)
      else .next (respond (counterResponse opConnect s.ses)
        (selectDiscipline (discOf disc) (clearSession (setAoe (flags.getLsbD 0) (setOp opConnect s))))) := by
  obtain rfl | ⟨rfl, haux⟩ := hdisc
  · simp [execConnect, hflags]
  · simp [execConnect, hflags, haux]

end

/-- Settles O22: illegal fields are refused before S.DSTATE is looked at, and legal ones in Queuing only. -/
theorem connectSelectsOrRefuses : Obligations.ConnectSelectsOrRefuses := by
  unfold Obligations.ConnectSelectsOrRefuses
  intro s disc flags
  refine ⟨fun hillegal => ?_, fun ⟨hdisc, hflags⟩ => ⟨fun hqueuing => ?_, fun hqueuing => ?_⟩⟩
  · exact refuses_of_exec_eq opConnect .badCommand (execConnect_illegal hillegal)
  · exact refuses_of_exec_eq opConnect .badState ((execConnect_legal hdisc hflags).trans (if_pos hqueuing))
  · refine ⟨_, (execConnect_legal hdisc hflags).trans (if_neg hqueuing), respond_rspBuf _ _, ?_, ?_, ?_, ?_, ?_, ?_⟩
    · simp [discOf]
    all_goals simp

/-! CLOCK. -/

/-- Settles O23: the request is compared with F_MIN, and a request from F_MIN on writes S.HALF alone. -/
theorem clockSetsHalfOrRefuses : Obligations.ClockSetsHalfOrRefuses := by
  unfold Obligations.ClockSetsHalfOrRefuses
  intro s freq
  refine ⟨fun hlow => ?_, fun hlegal => ?_⟩
  · exact refuses_of_exec_eq opClock .badCommand (if_pos hlow)
  · refine ⟨_, (if_neg (Nat.not_lt.2 hlegal) : execClock freq s = _), ?_, ?_, ?_, ?_, ?_, ?_, ?_⟩
    · simp [halfFor]
    · simp [rateOf, opClock, Status.code]
    all_goals simp

/-! The clock clamp (R187). -/

theorem fMin_pos {c : Config} (hl : Legal c) : 0 < fMin c := by
  have hmax : 0 < halfMax c := hl.halfMin_pos.trans hl.halfMin_le
  exact ceilDiv_pos (by omega) hl.fSys_pos

/-- The clamp is the least half-period in reach whose rate F_SYS / (2h) is at or below the request. -/
theorem halfFor_le_iff {c : Config} {f h : Nat} (hf : 0 < f) :
    halfFor c f ≤ h ↔ c.halfMin ≤ h ∧ c.fSys ≤ 2 * h * f := by
  have hcomm : h * (2 * f) = 2 * h * f := by ring
  have hceil : ceilDiv c.fSys (2 * f) ≤ h ↔ c.fSys ≤ h * (2 * f) :=
    ⟨fun hle => (le_ceilDiv_mul (by omega)).trans (Nat.mul_le_mul_right _ hle), ceilDiv_le (by omega)⟩
  rw [halfFor, max_le_iff, hceil, hcomm]

/-- Settles O24: the clamp is the least half-period that qualifies, and at most HALF_MAX from F_MIN on. -/
theorem clampIsClosestFromBelow : Obligations.ClampIsClosestFromBelow := by
  unfold Obligations.ClampIsClosestFromBelow
  intro c f hl hf
  have hpos : 0 < f := (fMin_pos hl).trans_le hf
  obtain ⟨hge, hle⟩ := halfFor_mem hl hf
  obtain ⟨-, hrate⟩ := (halfFor_le_iff (c := c) hpos).1 le_rfl
  refine ⟨hge, hle, hrate, fun h hmin _ hbelow => (halfFor_le_iff hpos).2 ⟨hmin, hbelow⟩, ?_, ?_⟩
  · exact Nat.div_le_of_le_mul hrate
  · exact (Nat.div_le_self _ _).trans_lt hl.fSys_lt

/-- Settles O25: what qualifies for a request qualifies for a higher one, and HALF_MIN qualifies above F_MAX. -/
theorem clampIsMonotonicAndTopsOut : Obligations.ClampIsMonotonicAndTopsOut := by
  unfold Obligations.ClampIsMonotonicAndTopsOut
  intro c hl
  refine ⟨fun f g hf hfg => ?_, fun f hf => ?_⟩
  · have hpos : 0 < f := (fMin_pos hl).trans_le hf
    obtain ⟨hge, hrate⟩ := (halfFor_le_iff (c := c) hpos).1 le_rfl
    exact (halfFor_le_iff (hpos.trans_le hfg)).2 ⟨hge, hrate.trans (Nat.mul_le_mul_left _ hfg)⟩
  · have hmin : 0 < 2 * c.halfMin := Nat.mul_pos two_pos hl.halfMin_pos
    have hrate : c.fSys < 2 * c.halfMin * f := by
      rw [mul_comm]
      exact (Nat.div_lt_iff_lt_mul hmin).1 hf
    have htop : halfFor c f = c.halfMin :=
      ((halfFor_le_iff (Nat.zero_lt_of_lt hf)).2 ⟨le_rfl, hrate.le⟩).antisymm (le_max_left _ _)
    exact ⟨htop, by rw [htop, rateOf, fMax]⟩

/-! RESET. -/

theorem boolByte_getElem_zero (l : Bool) : (boolByte l)[0] = l := by
  cases l <;> rfl

theorem boolByte_toNat_le (l : Bool) : ¬ 1 < (boolByte l).toNat := by
  cases l <;> decide

section

variable {s : State} (l : Bool)

theorem execReset_untimed :
    execReset (boolByte l) 0#32 s =
      .next (respond [opReset, Status.ok.code, boolByte l] (setResetLine l (setOp opReset s))) := by
  simp [execReset, boolByte_toNat_le, boolByte_getElem_zero]

theorem execReset_timed {duration : Word} (h : duration ≠ 0#32) :
    execReset (boolByte l) duration s =
      .next (respond [opReset, Status.ok.code, boolByte !l]
        (holdThenFlip l (resetTicks s.cfg duration) (setResetLine l (setOp opReset s)))) := by
  simp [execReset, boolByte_toNat_le, boolByte_getElem_zero, h, holdThenFlip]

end

/-- Settles O26: LEVEL is refused above 1; of the legal ones, DURATION tells the untimed RESET from the timed. -/
theorem resetDrivesResetLine : Obligations.ResetDrivesResetLine := by
  unfold Obligations.ResetDrivesResetLine
  intro s level duration
  refine ⟨fun hlevel => ?_, fun l hl => ?_⟩
  · exact refuses_of_exec_eq opReset .badCommand (if_pos hlevel)
  obtain rfl : level = boolByte l := hl
  refine ⟨?_, fun hduration => ?_⟩
  · rintro rfl
    refine ⟨_, execReset_untimed l, ?_, respond_rspBuf _ _, ?_, ?_, ?_, ?_, ?_⟩
    all_goals simp
  · refine ⟨_, execReset_timed l hduration, ?_, ?_, ?_, ?_, ?_, ?_, ?_⟩
    case refine_2 => cases l <;> simp [boolByte, opReset, Status.code]
    all_goals simp [holdThenFlip, resetTicks]

/-- Settles O27: the ticks are a ceiling division. -/
theorem resetHoldNeverShort : Obligations.ResetHoldNeverShort := by
  unfold Obligations.ResetHoldNeverShort
  intro c duration
  exact ⟨le_ceilDiv_mul (by decide), ceilDiv_mul_lt (by decide)⟩

/-! ABORT. -/

/-- Settles O28: ABORT looks at nothing before its effect. -/
theorem abortClears : Obligations.AbortClears := by
  unfold Obligations.AbortClears
  intro s
  refine ⟨_, (rfl : execAbort s = _), respond_rspBuf _ _, ?_, ?_, ?_, entries_nil ?_, ?_, ?_, ?_, ?_, ?_⟩
  all_goals simp

end Sys2Proof.Machine
end

section
/-!
The statements of an XFER read answered OK, of QPUSH, and of the refusals of the transfer commands by dispatcher state
(43_transfer_commands.md R212 to R218, R221): for each way QPUSH can end one equation, then its effect read off from it.
-/

namespace Sys2Proof.Machine

open Sys2Proof

/-! XFER. -/

/-- Settles O29: the parity check of the last transaction gives OK, whose record holds the value. -/
theorem xferReadReturnsValue : Obligations.XferReadReturnsValue := by
  unfold Obligations.XferReadReturnsValue
  intro s loc v n rest hconn hr hd hn ha
  have hst : readStatus v (parity32 v) = .ok := by simp [readStatus]
  have hlast := swdAnswered_read (sel := selOf loc true) (wdata := 0#32) (v := v) (par := parity32 v) (by simp)
  rw [hst] at hlast
  obtain ⟨t, hexec, ht⟩ := xfer_swdAnswered_end hconn hr hlast hd hn nofun ha
  exact ⟨t, hexec, by simp [ht.rspBuf, Status.code], by rw [ht.trace, List.append_assoc], ht.answers, ht.field,
    ht.ses, ht.queue, ht.pin, ht.host, ht.cfg⟩

/-- Outside Connected nothing of XFER runs (R215). -/
theorem xfer_not_connected {sel : Sel} {value : Word} {s : State} (h : s.ses.dstate ≠ .connected) :
    xfer sel value s = raise .badState (setOp opXfer s) :=
  if_pos h

/-- Settles O36: either form asks for Connected before anything else. -/
theorem xferRefusedOutsideConnected : Obligations.XferRefusedOutsideConnected := by
  unfold Obligations.XferRefusedOutsideConnected
  intro s i hform hconn
  obtain ⟨loc, rfl⟩ | ⟨loc, v, rfl⟩ := hform
  all_goals exact refuses_of_exec_eq opXfer .badState (xfer_not_connected hconn)

/-! The queue with an Operation put behind its newest entry (R216). -/

/-- The record that `enqueue` stores: the selector, the word of a write, and free values (R216, 10 R30). -/
def queuedOp (sel : Sel) (wdata : Option Word) (n : Nat) : Op :=
  { freeOp n with sel := sel, wdata := wdata.getD (freeOp n).wdata }

/-- The queue with an Operation in the slot behind the newest entry. -/
def Queue.push (q : Queue) (c : Config) (op : Op) : Queue :=
  { q with slots := q.slots.set (slotOf c q q.count) op, count := q.count + 1 }

theorem QueueOk.push {c : Config} {q : Queue} (h : QueueOk c q) (op : Op) (hroom : q.count < c.qcap) :
    QueueOk c (q.push c op) where
  slots_length := by simp [Queue.push, h.slots_length]
  head_lt := h.head_lt
  count_le := hroom

/-! QPUSH: one equation per way it ends. -/

section

variable {s : State} {sel : Sel} {wdata : Option Word}

theorem qpush_idle (hidle : s.ses.dstate = .idle) : qpush sel wdata s = raise .badState (setOp opQpush s) :=
  if_pos hidle

theorem qpush_full (hidle : s.ses.dstate ≠ .idle) (hfull : s.queue.count = s.cfg.qcap) :
    qpush sel wdata s =
      .next (respond [opQpush, Status.queueFull.code, 0x00#8] (countOverrun (setOp opQpush s))) := by
  have he : enqueue sel wdata (setOp opQpush s) = none := enqueue_full hfull
  simp [qpush, hidle, he]

theorem qpush_room (hidle : s.ses.dstate ≠ .idle) (hroom : s.queue.count < s.cfg.qcap) :
    qpush sel wdata s =
      .next (respond [opQpush, Status.ok.code, BitVec.ofNat 8 (s.cfg.qcap - (s.queue.count + 1))]
        (setDState .queuing
          (((setOp opQpush s).setQueue (s.queue.push s.cfg (queuedOp sel wdata s.free))).setFree (s.free + 4)))) := by
  have he : enqueue sel wdata (setOp opQpush s) =
      some (((setOp opQpush s).setQueue (s.queue.push s.cfg (queuedOp sel wdata s.free))).setFree (s.free + 4)) :=
    enqueue_room hroom.ne
  simp [qpush, hidle, he, Queue.push]

end

/-- Settles O38: the slot behind the newest entry is the end of the list of entries. -/
theorem qpushAppends : Obligations.QpushAppends := by
  unfold Obligations.QpushAppends
  intro s i sel wdata hform hidle hq hroom
  have hi : exec i = qpush sel wdata := by
    obtain ⟨loc, rfl, rfl, rfl⟩ | ⟨loc, v, rfl, rfl, rfl⟩ := hform <;> rfl
  have hok : QueueOk s.cfg s.queue := ⟨hq.slots_length, hq.head_lt, hq.count_le⟩
  obtain ⟨hlength, hhead, hcount⟩ := hok.push (queuedOp sel wdata s.free) hroom
  refine ⟨_, queuedOp sel wdata s.free, (congrFun hi s).trans (qpush_room hidle hroom), ?_, rfl, ?_, ?_,
    ⟨hlength, hhead, hcount, hq.qcap_le⟩, respond_rspBuf _ _, ?_, ?_, ?_, ?_, ?_⟩
  · exact entries_enqueue _ hok hroom
  · rintro v rfl
    rfl
  all_goals simp [Queue.push]

/-- Settles O39: a full queue leaves QPUSH its overrun count to write. -/
theorem qpushOnFullQueue : Obligations.QpushOnFullQueue := by
  unfold Obligations.QpushOnFullQueue
  intro s i hform hidle hfull
  obtain ⟨loc, rfl⟩ | ⟨loc, v, rfl⟩ := hform
  all_goals
    refine ⟨_, qpush_full hidle hfull, respond_rspBuf _ _, ?_, ?_, ?_, ?_, ?_, ?_⟩
    all_goals simp [satInc]

/-! QEXEC. -/

theorem execQexec_idle {s : State} (hidle : s.ses.dstate = .idle) :
    execQexec s = raise .badState (setOp opQexec s) :=
  if_pos hidle

/-- Settles O40: each command asks for a state other than Idle before anything else. -/
theorem queueCommandsRefusedInIdle : Obligations.QueueCommandsRefusedInIdle := by
  unfold Obligations.QueueCommandsRefusedInIdle
  intro s i hidle
  constructor
  · rintro (⟨loc, rfl⟩ | ⟨loc, v, rfl⟩)
    all_goals exact refuses_of_exec_eq opQpush .badState (qpush_idle hidle)
  · rintro rfl
    exact refuses_of_exec_eq opQexec .badState (execQexec_idle hidle)

end Sys2Proof.Machine
end

section
/-!
The dispatcher between commands: the transition table with its order of refusals (60_exceptions.md R260, R262), each row
read off from what the command's own statement says, and the wait with nothing on offer (60 R271, 70 R281).
-/

namespace Sys2Proof.Machine

open Sys2Proof

/-- Settles O17: with the reset line high and nothing to run or to answer, the step has no packet to take. -/
theorem stepWaitsForPacket : Obligations.StepWaitsForPacket := by
  unfold Obligations.StepWaitsForPacket
  intro s hrst hfield hrsp hcmd
  simp [step, hrst, hfield, hrsp, hcmd]

/-- A command answers as its row of the table says: refused for its fields, refused for the dispatcher state, or
accepted (R260, R262). -/
def FollowsTable (i : Instr) (s : State) : Prop :=
  ∃ t, exec i s = .next t ∧
    (legalFields s.cfg i = false → t.rspBuf.getD 1 0#8 = Status.badCommand.code ∧ t.ses.dstate = s.ses.dstate) ∧
    (legalFields s.cfg i = true → tableRefuses s.ses.dstate i = true →
      t.rspBuf.getD 1 0#8 = Status.badState.code ∧ t.ses.dstate = s.ses.dstate) ∧
    (legalFields s.cfg i = true → tableRefuses s.ses.dstate i = false →
      refusedResponse t.rspBuf = false ∧ t.ses.dstate = stateAfter s.ses.dstate i)

/-! The three ways to follow the table. -/

section

variable {i : Instr} {s t : State} {op : Byte} {tail : List Byte}

theorem followsTable_of_badCommand (hfields : legalFields s.cfg i = false)
    (h : ∃ t, exec i s = .next t ∧ t.rspBuf = [op, Status.badCommand.code] ∧ Quiet s t) : FollowsTable i s := by
  obtain ⟨t, hexec, hrsp, hquiet⟩ := h
  exact ⟨t, hexec, fun _ => ⟨by simp [hrsp], by rw [hquiet.ses]⟩, by simp [hfields], by simp [hfields]⟩

theorem followsTable_of_badState (hfields : legalFields s.cfg i = true) (htable : tableRefuses s.ses.dstate i = true)
    (h : ∃ t, exec i s = .next t ∧ t.rspBuf = [op, Status.badState.code] ∧ Quiet s t) : FollowsTable i s := by
  obtain ⟨t, hexec, hrsp, hquiet⟩ := h
  exact ⟨t, hexec, by simp [hfields], fun _ _ => ⟨by simp [hrsp], by rw [hquiet.ses]⟩, by simp [htable]⟩

theorem followsTable_of_accepted {st : Status} (hfields : legalFields s.cfg i = true)
    (htable : tableRefuses s.ses.dstate i = false) (hexec : exec i s = .next t)
    (hrsp : t.rspBuf = op :: st.code :: tail) (hst : ¬ IsRefusal st)
    (hdstate : t.ses.dstate = stateAfter s.ses.dstate i) : FollowsTable i s := by
  refine ⟨t, hexec, by simp [hfields], by simp [htable], fun _ _ => ⟨?_, hdstate⟩⟩
  rw [hrsp, Bool.eq_false_iff, ne_eq, refusedResponse_iff]
  exact hst

theorem followsTable_of_ok (hfields : legalFields s.cfg i = true) (htable : tableRefuses s.ses.dstate i = false)
    (hexec : exec i s = .next t) (hrsp : t.rspBuf = op :: Status.ok.code :: tail)
    (hdstate : t.ses.dstate = stateAfter s.ses.dstate i) : FollowsTable i s :=
  followsTable_of_accepted hfields htable hexec hrsp (by simp [IsRefusal]) hdstate

end

/-! Field legality (30 R84 step 4). -/

theorem legalFields_connect_iff {c : Config} {disc flags : Byte} :
    legalFields c (.connect disc flags) = true ↔
      (disc = 1#8 ∨ (disc = 2#8 ∧ c.hasAux = true)) ∧ flags.extractLsb' 1 7 = 0#7 := by
  by_cases hdisc : disc = 2#8
  · simp [legalFields, wfConnect, hdisc, and_comm]
  · simp [legalFields, wfConnect, hdisc]

theorem illegal_connect {c : Config} {disc flags : Byte} (h : legalFields c (.connect disc flags) = false) :
    (disc ≠ 1#8 ∧ disc ≠ 2#8) ∨ (disc = 2#8 ∧ c.hasAux = false) ∨ flags.extractLsb' 1 7 ≠ 0#7 := by
  rw [Bool.eq_false_iff, ne_eq, legalFields_connect_iff] at h
  cases haux : c.hasAux <;> simp only [haux] at h ⊢ <;> tauto

/-- The legal levels of RESET are the two bytes of a bit (R95). -/
theorem wfReset_iff {level : Byte} : wfReset level = true ↔ ∃ l, level = boolByte l := by
  simp [wfReset, boolByte]

theorem one_lt_toNat_of_not_wfReset {level : Byte} (h : wfReset level = false) : 1 < level.toNat := by
  simp only [wfReset, Bool.or_eq_false_iff, beq_eq_false_iff_ne, ne_eq] at h
  obtain ⟨h0, h1⟩ := h
  bv_omega

/-! What a settled state says of the queue. -/

/-- A queue that holds something means Queuing (R34, 92 D47). -/
theorem Settled.dstate_eq_queuing {s : State} (h : Settled s) (hcount : 0 < s.queue.count) :
    s.ses.dstate = .queuing := by
  by_contra hd
  exact hcount.ne' (h.count_eq_zero hd)

theorem Settled.queueInRange {s : State} (h : Settled s) : QueueInRange s :=
  ⟨h.queueOk.slots_length, h.queueOk.head_lt, h.queueOk.count_le, h.legal.qcap_le⟩

/-! The rows of the table. -/

section

variable {s : State}

theorem followsTable_info : FollowsTable .info s := by
  obtain ⟨t, hexec, hquiet, hrsp⟩ := infoAnswersConstant s
  exact followsTable_of_ok rfl rfl hexec hrsp (by rw [hquiet.ses]; rfl)

theorem followsTable_connect (disc flags : Byte) : FollowsTable (.connect disc flags) s := by
  obtain ⟨hillegal, hlegal⟩ := connectSelectsOrRefuses s disc flags
  cases hfields : legalFields s.cfg (.connect disc flags) with
  | false => exact followsTable_of_badCommand hfields (hillegal (illegal_connect hfields))
  | true =>
    obtain ⟨hqueuing, helse⟩ := hlegal (legalFields_connect_iff.1 hfields)
    by_cases hd : s.ses.dstate = .queuing
    · exact followsTable_of_badState hfields (by simp [tableRefuses, hd]) (hqueuing hd)
    · obtain ⟨t, hexec, hrsp, hses, -⟩ := helse hd
      exact followsTable_of_ok hfields (by simp [tableRefuses, hd]) hexec hrsp (by rw [hses]; rfl)

theorem followsTable_clock (freq : Word) : FollowsTable (.clock freq) s := by
  obtain ⟨hlow, hlegal⟩ := clockSetsHalfOrRefuses s freq
  by_cases hf : fMin s.cfg ≤ freq.toNat
  · obtain ⟨t, hexec, hses, hrsp, -⟩ := hlegal hf
    exact followsTable_of_ok (by simp [legalFields, hf]) rfl hexec hrsp (by rw [hses]; rfl)
  · exact followsTable_of_badCommand (by simp [legalFields, hf]) (hlow (Nat.lt_of_not_le hf))

theorem followsTable_reset (level : Byte) (duration : Word) : FollowsTable (.reset level duration) s := by
  obtain ⟨hillegal, hlegal⟩ := resetDrivesResetLine s level duration
  cases hfields : wfReset level with
  | false => exact followsTable_of_badCommand hfields (hillegal (one_lt_toNat_of_not_wfReset hfields))
  | true =>
    obtain ⟨l, hl⟩ := wfReset_iff.1 hfields
    obtain ⟨huntimed, htimed⟩ := hlegal l hl
    by_cases hduration : duration = 0#32
    · obtain ⟨t, hexec, hses, hrsp, -⟩ := huntimed hduration
      exact followsTable_of_ok hfields rfl hexec hrsp (by rw [hses]; rfl)
    · obtain ⟨t, hexec, hses, hrsp, -⟩ := htimed hduration
      exact followsTable_of_ok hfields rfl hexec hrsp (by rw [hses]; rfl)

theorem followsTable_abort : FollowsTable .abort s := by
  obtain ⟨t, hexec, hrsp, hses, -⟩ := abortClears s
  exact followsTable_of_ok rfl rfl hexec hrsp (by rw [hses]; rfl)

/-- In Connected the status is one that `RunOp` can return, which never refuses (R211, R215). -/
theorem followsTable_xfer {i : Instr} {sel : Sel} {wdata : Word} (h : Settled s)
    (hform : (∃ loc, i = .xferR loc ∧ sel = selOf loc true ∧ wdata = 0#32) ∨
      ∃ loc, i = .xferW loc wdata ∧ sel = selOf loc false) : FollowsTable i s := by
  obtain ⟨hfields, htable, hafter, hxfer⟩ : legalFields s.cfg i = true ∧
      tableRefuses s.ses.dstate i = (s.ses.dstate != .connected) ∧ stateAfter s.ses.dstate i = .connected ∧
      ((∃ loc, i = .xferR loc) ∨ ∃ loc v, i = .xferW loc v) := by
    obtain ⟨loc, rfl, -⟩ | ⟨loc, rfl, -⟩ := hform
    · exact ⟨rfl, rfl, rfl, .inl ⟨loc, rfl⟩⟩
    · exact ⟨rfl, rfl, rfl, .inr ⟨loc, wdata, rfl⟩⟩
  by_cases hconn : s.ses.dstate = .connected
  · have hready := h.codecReady (h.disc_ne_none (by simp [hconn]))
    obtain ⟨t, st, v, evs, hexec, hst, -, hrsp, hses, -⟩ := xferAlwaysCompletes s i sel wdata hform hconn hready
    exact followsTable_of_accepted hfields (htable.trans (by simp [hconn])) hexec hrsp
      (not_isRefusal_of_runOpStatus hst) (by rw [hses, hafter, ← hconn])
  · exact followsTable_of_badState hfields (htable.trans (by simp [hconn]))
      (xferRefusedOutsideConnected s i hxfer hconn)

/-- A full queue is no refusal: the state is Queuing already, as the queue holds something (R218, R262). -/
theorem followsTable_qpush {i : Instr} {sel : Sel} {wdata : Option Word} (h : Settled s)
    (hform : (∃ loc, i = .qpushR loc ∧ sel = selOf loc true ∧ wdata = none) ∨
      ∃ loc v, i = .qpushW loc v ∧ sel = selOf loc false ∧ wdata = some v) : FollowsTable i s := by
  obtain ⟨hfields, htable, hafter, hqpush⟩ : legalFields s.cfg i = true ∧
      tableRefuses s.ses.dstate i = (s.ses.dstate == .idle) ∧ stateAfter s.ses.dstate i = .queuing ∧
      ((∃ loc, i = .qpushR loc) ∨ ∃ loc v, i = .qpushW loc v) := by
    obtain ⟨loc, rfl, -⟩ | ⟨loc, v, rfl, -⟩ := hform
    · exact ⟨rfl, rfl, rfl, .inl ⟨loc, rfl⟩⟩
    · exact ⟨rfl, rfl, rfl, .inr ⟨loc, v, rfl⟩⟩
  by_cases hidle : s.ses.dstate = .idle
  · obtain ⟨hrefused, -⟩ := queueCommandsRefusedInIdle s i hidle
    exact followsTable_of_badState hfields (htable.trans (by simp [hidle])) (hrefused hqpush)
  have haccepts : tableRefuses s.ses.dstate i = false := htable.trans (by simp [hidle])
  by_cases hfull : s.queue.count = s.cfg.qcap
  · obtain ⟨t, hexec, hrsp, -, hses, -⟩ := qpushOnFullQueue s i hqpush hidle hfull
    have hqueuing : s.ses.dstate = .queuing := h.dstate_eq_queuing (hfull ▸ h.legal.qcap_pos)
    exact followsTable_of_accepted (st := .queueFull) hfields haccepts hexec hrsp (by simp [IsRefusal])
      (by rw [hses, hafter, ← hqueuing])
  · have hroom : s.queue.count < s.cfg.qcap := h.queueOk.count_le.lt_of_ne hfull
    obtain ⟨t, e, hexec, -, -, -, -, -, hrsp, hses, -⟩ := qpushAppends s i sel wdata hform hidle h.queueInRange hroom
    exact followsTable_of_ok hfields haccepts hexec hrsp (by rw [hses, hafter])

/-- The batch's status is OK, or the stopping status of one of its Operations (R224, R226). -/
theorem batchHeaderOf_status (aoe : Bool) (sts : List Status) :
    ∃ st tail, batchHeaderOf aoe sts = opQexec :: Status.code st :: tail ∧ ¬ IsRefusal st := by
  unfold batchHeaderOf
  split
  next => exact ⟨.ok, _, rfl, by simp [IsRefusal]⟩
  next k hk =>
    obtain ⟨st, hst, hstops⟩ := stopIndex_stops hk
    refine ⟨st, _, by rw [List.getD_eq_getElem?_getD, hst, Option.getD_some], ?_⟩
    rintro (rfl | rfl) <;> cases hstops

theorem followsTable_qexec (h : Settled s) : FollowsTable .qexec s := by
  by_cases hidle : s.ses.dstate = .idle
  · obtain ⟨-, hrefused⟩ := queueCommandsRefusedInIdle s .qexec hidle
    exact followsTable_of_badState rfl (by simp [tableRefuses, hidle]) (hrefused rfl)
  · obtain ⟨t, rs, evs, hexec, -, -, hrsp, -, -, hses, -⟩ :=
      qexecDrainsInOrder s hidle h.queueInRange (.inr (h.codecReady (h.disc_ne_none hidle)))
    obtain ⟨st, tail, hheader, hst⟩ := batchHeaderOf_status s.ses.aoe (rs.map Prod.fst)
    rw [hheader] at hrsp
    exact followsTable_of_accepted rfl (by simp [tableRefuses, hidle]) hexec hrsp hst (by rw [hses]; rfl)

end

/-- Settles O59: the invariant rules out that a transfer command stops, and each command has its row. -/
theorem transitionTable : Obligations.TransitionTable := by
  unfold Obligations.TransitionTable
  intro i s hinv hi
  obtain ⟨h, -⟩ := inv_iff_settled.1 hinv
  show FollowsTable i s
  cases i with
  | info => exact followsTable_info
  | connect disc flags => exact followsTable_connect disc flags
  | clock freq => exact followsTable_clock freq
  | reset level duration => exact followsTable_reset level duration
  | xferR loc => exact followsTable_xfer h (.inl ⟨loc, rfl, rfl, rfl⟩)
  | xferW loc value => exact followsTable_xfer h (.inr ⟨loc, rfl, rfl⟩)
  | qpushR loc => exact followsTable_qpush h (.inl ⟨loc, rfl, rfl, rfl⟩)
  | qpushW loc value => exact followsTable_qpush h (.inr ⟨loc, value, rfl, rfl, rfl⟩)
  | qexec => exact followsTable_qexec h
  | abort => exact followsTable_abort
  | swdReq sel => cases hi
  | swdAck ack => cases hi
  | swdData data par => cases hi
  | scanIr port => cases hi
  | scanDr rnw a2 a3 data => cases hi

end Sys2Proof.Machine
end

section
/-!
Hardware reset (70_reset_and_hazards.md R280): a step with rst_n low, and a reset that falls inside a command, whose
trace is cut off in the stretch that the whole command would have added.
-/

namespace Sys2Proof.Machine

open Sys2Proof

theorem step_hwReset {s : State} (hrst : s.host.rstN = false) : step s = .next (hwReset s) := if_pos hrst

/-- Settles O11: the step is `hwReset`, and cmd_ready and rsp_valid are low with rst_n. -/
theorem hardwareResetStep : Obligations.HardwareResetStep := by
  unfold Obligations.HardwareResetStep
  intro s hrst
  refine ⟨hwReset s, step_hwReset hrst, ?_⟩
  simp [rstO, cmdReady, rspValid, hrst, Session.reset, Queue.reset, Pins.reset]

/-- With a reset inside it, the command that the step takes is run and then abandoned at the cut (R280). -/
theorem step_cutPacket {s u : State} {p : Packet} {rest : List Packet} {cut : ResetCut} (hrst : s.host.rstN = true)
    (hcut : s.host.rstCut = some cut) (hfield : s.wire.field = none) (hrsp : s.rspBuf = [])
    (hcmd : s.host.cmdIn = p :: rest) (hrun : runPacket p (accept p rest s) = .next u) :
    step s = .next (abandon cut (accept p rest s) u) := by
  simp [step, withResetCut, hrst, hcut, hfield, hrsp, hcmd, hrun]

/-- Settles O12: the whole command would add an orderly stretch, in which `cutShort` describes the event in flight; its
cycles are at S.HALF, at least one tick, so that the low phase has a last tick to sample on. -/
theorem resetInsideCommand : Obligations.ResetInsideCommand := by
  unfold Obligations.ResetInsideCommand
  intro s p rest cut hinv hrst hrsp hcmd hcut
  obtain ⟨hs, -⟩ := inv_iff_settled.1 hinv
  obtain ⟨u, hrun, -⟩ := (answers_runPacket p (hs.accept p rest)).inv
  obtain ⟨evs, htrace, hevs⟩ := runPacket_addsOrderly (hs.accept p rest) hrun
  have hpos {e : WireEvent} {h : Nat} (he : evs[cut.events]? = some e) (hh : eventHalf e = some h) : 1 ≤ h := by
    rw [hevs.half e (List.mem_of_getElem? he) h hh, accept_ses]
    exact hinv.legal.halfMin_pos.trans hinv.half_ge
  have hwire := abandon_wire (cut := cut) htrace
  have hstep := step_cutPacket hrst hcut hinv.field_none hrsp hcmd hrun
  refine ⟨_, u, evs, cutShort cut evs (accept p rest s), hrun, by simpa using htrace, hstep, by simp [hwire],
    by simp [hwire], by simp [hwire, cutShort_place], fun e he => cutShort_flight cut evs _ he,
    cutShort_boundary cut evs _, by simp [cutShort_clk], by simpa using cutShort_high cut evs (accept p rest s),
    fun e h he hh => cutShort_samples cut evs _ he hh (hpos he hh), ⟨_, rfl, by simp [hwire], by simp [hwire]⟩, ?_⟩
  -- DPSE is in the reset state; of the inputs, the packet and the cut are used up.
  simp [abandon_ses, abandon_queue, Queue.reset, abandon_rspBuf, abandon_pin, Pins.reset, abandon_host, abandon_cfg]

end Sys2Proof.Machine
end
